-- ==== Sys2Proof/Word.lean ====
section
/-!
DEFINITION. The bit-vector types of the core's registers, records and bus words (spec rules R8, R10, R54).
-/

namespace Sys2Proof

/-- One 32-bit bus word (R39). -/
abbrev Word := BitVec 32

/-- A 256-bit operand, result or constant register (R8). -/
abbrev Wide := BitVec 256

/-- The 512-bit register A (R8). -/
abbrev Wide512 := BitVec 512

/-- A byte offset in the 4096-byte register window (R38). -/
abbrev Offset := BitVec 12

/-- A 48-bit TXN record (R56). -/
abbrev Record := BitVec 48

/-- An event code of ERRCODE (R25). -/
abbrev Code := BitVec 8

end Sys2Proof
end

