-- ==== Sys2Proof/Config.lean ====
section
/-!
DEFINITION. What an implementation fixes (the parameters of R8) and the free values of the spec. A free value has
no body: nothing can be proved about it, so a claim holds whatever it is. Where the spec states a default (G_X and
G_Y, D16) the default stands here; the state holds the parameter itself (log 6).
-/

namespace Sys2Proof.Config

/-- INIT_CYCLES (R8, U9): a natural number, possibly 0; the spec gives no value (log 5). -/
opaque initCycles : Nat

/-- How many host turns pass before the next turn of another agent (R48, R136, U8, U10): natural, so finite (log 3). -/
opaque freeWait : Nat → Nat

/-- Whether that next turn is a hardware reset (R123) or the engine's (log 4). -/
opaque freeReset : Nat → Bool

/-- The word a read of DCONST answers while READY = 0 (R31, R97, U7): any value (log 7). -/
opaque freeWord : Nat → Word

/-- The default G_X of D16, the x coordinate of the base point. -/
def gX : Wide := 15112221349535400772501151409588531511454012693041857206046113283949847762202#256

/-- The default G_Y of D16, the y coordinate of the base point. -/
def gY : Wide := 46316835694926478169428394003475163141307993866256225615783033603165251855960#256

end Sys2Proof.Config
end

