-- ==== Sys2Proof/Syntax.lean ====
section
/-!
DEFINITION. The instructions of spec/opcode_table.json, one constructor per row: the eight commands of format
CMD, which have no operand field (R55, R57), and the three transactions of format TXN (R56). Operand widths are
the widths of the encoded fields, so every term of this type has an encoding.
-/

namespace Sys2Proof

inductive Instr where
  /-- REDUCE (R70). -/
  | reduce
  /-- INV (R71). -/
  | inv
  /-- PADD (R77). -/
  | padd
  /-- PDBL (R78). -/
  | pdbl
  /-- SMUL (R83). -/
  | smul
  /-- CLAMP (R89). -/
  | clamp
  /-- DERIVE (R92). -/
  | derive
  /-- CHECK (R91). -/
  | check
  /-- RD of a register word (R97). -/
  | rd (off : Offset)
  /-- WR of a word (R99). -/
  | wr (off : Offset) (data : Word)
  /-- POLL of a register word until every bit of the mask is set (R100). -/
  | poll (off : Offset) (mask : Word)
  deriving DecidableEq, Repr

end Sys2Proof
end

