-- ==== Sys2Proof/WellFormed.lean ====
section
/-!
DEFINITION. Which raw words are instructions at all. Every term of `Instr` is well-formed, because its operand
widths are the field widths; the checks of the spec are on the raw words: what makes 48 bits a program record
(R56) and 32 bits a legal command word (R59, R60).
-/

namespace Sys2Proof

/-- The fields of a TXN record (R56). -/
abbrev Record.kind (w : Record) : BitVec 2 := w.extractLsb' 46 2
abbrev Record.rsv (w : Record) : BitVec 2 := w.extractLsb' 44 2
abbrev Record.offset (w : Record) : Offset := w.extractLsb' 32 12
abbrev Record.data (w : Record) : Word := w.extractLsb' 0 32

/-- KIND 11 is illegal, RSV must be 0, and an RD has DATA 0 (R56). OFFSET is not checked by the format. -/
def Record.wellFormed (w : Record) : Bool :=
  Record.kind w != 3#2 && Record.rsv w == 0#2 && (Record.kind w != 0#2 || Record.data w == 0#32)

/-- A program holds records only (R95). -/
def wellFormedProgram (p : List Record) : Bool := p.all Record.wellFormed

/-- The fields of a command word (R55). -/
abbrev commandRsv (w : Word) : BitVec 24 := w.extractLsb' 8 24
abbrev commandOpcode (w : Word) : BitVec 8 := w.extractLsb' 0 8

/-- The legal command words: RSV is 0 and OPCODE is 0x01 to 0x08 (R60). -/
def wellFormedCommand (w : Word) : Bool :=
  commandRsv w == 0#24 && 1#8 ≤ commandOpcode w && commandOpcode w ≤ 8#8

end Sys2Proof
end

