-- ==== Sys2Proof/Decode.lean ====
section
/-!
DEFINITION. Decoding and encoding. A command word is decoded by its whole 32 bits (R59), a TXN record by its KIND
(R56). Both decoders are total and name the reason of every refusal.
-/

namespace Sys2Proof

/-- The eight commands, as the engine's `busy_op` names them (R33, R58). -/
inductive Command where
  | reduce | inv | padd | pdbl | smul | clamp | derive | check
  deriving DecidableEq, Repr

/-- Why a raw word is no instruction. -/
inductive DecodeError where
  /-- ILLEGAL of R59: a reserved bit is set or the opcode is unassigned. -/
  | illegalCommand
  /-- KIND 11 (R56). -/
  | illegalKind
  /-- RSV is not 0 (R56). -/
  | reservedBits
  /-- An RD with non-zero DATA (R56). -/
  | readWithData
  deriving DecidableEq, Repr

/-- The constructor of `Instr` a command stands for. -/
def Command.toInstr : Command → Instr
  | .reduce => .reduce
  | .inv => .inv
  | .padd => .padd
  | .pdbl => .pdbl
  | .smul => .smul
  | .clamp => .clamp
  | .derive => .derive
  | .check => .check

/-- OPCODE of each command (R58). -/
def Command.opcode : Command → BitVec 8
  | .reduce => 0x01#8
  | .inv => 0x02#8
  | .padd => 0x03#8
  | .pdbl => 0x04#8
  | .smul => 0x05#8
  | .clamp => 0x06#8
  | .derive => 0x07#8
  | .check => 0x08#8

/-- The command word: RSV = 0 above OPCODE (R55). -/
def Command.word (c : Command) : Word := 0#24 ++ c.opcode

/-- The opcode map of R59. -/
def decodeOpcode (op : BitVec 8) : Except DecodeError Command :=
  match op.toNat with
  | 0x01 => .ok .reduce
  | 0x02 => .ok .inv
  | 0x03 => .ok .padd
  | 0x04 => .ok .pdbl
  | 0x05 => .ok .smul
  | 0x06 => .ok .clamp
  | 0x07 => .ok .derive
  | 0x08 => .ok .check
  | _ => .error .illegalCommand

/-- R59, total on all command words. -/
def decodeCommand (w : Word) : Except DecodeError Command :=
  if commandRsv w = 0#24 then decodeOpcode (commandOpcode w) else .error .illegalCommand

/-- R56, total on all 48-bit words. When a word breaks several conditions the reason named is the first of
KIND, RSV, DATA (log 12). -/
def decodeRecord (w : Record) : Except DecodeError Instr :=
  if Record.kind w = 3#2 then .error .illegalKind
  else if Record.rsv w ≠ 0#2 then .error .reservedBits
  else if Record.kind w = 0#2 then
    if Record.data w = 0#32 then .ok (.rd (Record.offset w)) else .error .readWithData
  else if Record.kind w = 1#2 then .ok (.wr (Record.offset w) (Record.data w))
  else .ok (.poll (Record.offset w) (Record.data w))

/-- The fields of a record put together: KIND, RSV = 0, OFFSET, DATA (R56). -/
def mkRecord (kind : BitVec 2) (off : Offset) (data : Word) : Record :=
  kind ++ 0#2 ++ off ++ data

/-- An encoded instruction: its length in bits (R54) and its bits. -/
structure Encoding where
  nbits : Nat
  word : Nat
  deriving DecidableEq, Repr

/-- The words of an instruction, from R55, R56 and R58. -/
def encode : Instr → Encoding
  | .reduce => ⟨32, Command.reduce.word.toNat⟩
  | .inv => ⟨32, Command.inv.word.toNat⟩
  | .padd => ⟨32, Command.padd.word.toNat⟩
  | .pdbl => ⟨32, Command.pdbl.word.toNat⟩
  | .smul => ⟨32, Command.smul.word.toNat⟩
  | .clamp => ⟨32, Command.clamp.word.toNat⟩
  | .derive => ⟨32, Command.derive.word.toNat⟩
  | .check => ⟨32, Command.check.word.toNat⟩
  | .rd off => ⟨48, (mkRecord 0#2 off 0#32).toNat⟩
  | .wr off data => ⟨48, (mkRecord 1#2 off data).toNat⟩
  | .poll off mask => ⟨48, (mkRecord 2#2 off mask).toNat⟩

/-- The instruction read from `nbits` bits numbered as spec/opcode_table.json numbers them: 32 bits are a command
word, 48 bits a TXN record, and no other length exists (R54). -/
def decodeTableWord (nbits w : Nat) : Option Instr :=
  if nbits = 32 then
    match decodeCommand (BitVec.ofNat 32 w) with
    | .ok c => some c.toInstr
    | .error _ => none
  else if nbits = 48 then
    match decodeRecord (BitVec.ofNat 48 w) with
    | .ok i => some i
    | .error _ => none
  else none

end Sys2Proof
end

