-- ==== Sys2Proof/Machine/State.lean ====
section
/-!
DEFINITION. The state of the core, of its host and of the interleaving, as plain data; the reasons a step can
stop; the state after reset (R20, R21, R33, R34, R124). ID, PRIME and DCONST are constants and have no field;
STATUS.BUSY and `irq` are functions of fields (log 11).
-/

namespace Sys2Proof.Machine

/-- The fatal errors of R103. -/
inductive FatalCode where
  | nonInvertible | badModulus | notOnCurve | entropyFail
  deriving DecidableEq, Repr

/-- The rejections of R103. -/
inductive RejectCode where
  | illegalCmd | busy | notReady | locked
  deriving DecidableEq, Repr

/-- Why a bus access gets the ERROR response (R40, R41). -/
inductive BusCause where
  /-- The offset's bits 1:0 are not 00 (R40). -/
  | misaligned
  /-- The register map lists no word at the offset (R41). -/
  | unmapped
  /-- A write to a read-only register (R41). -/
  | readOnly
  deriving DecidableEq, Repr

/-- The reasons a step stops with a fault. -/
inductive Fault where
  /-- Raised by RD, WR and POLL: the ERROR response, which the spec makes a fault of the host program that changes
  no state (R96, R110, U13). `data` is what the response carries: `some 0` for a read, `none` for a write. Safe:
  the model stops where a host could go on (log 8). -/
  | busError (cause : BusCause) (off : Offset) (data : Option Word)
  /-- Raised by the meaning of a command when the engine is not running that command: R107 defines a completion
  only of `busy_op`. `step` never asks for it. Safe (log 9). -/
  | commandNotRunning
  deriving DecidableEq, Repr

/-- The reasons a step is refused. -/
inductive Refusal where
  /-- Raised only by an arm of `exec` whose instruction has no meaning. There is no such arm. Safe. -/
  | notModelled (mnemonic : String)
  /-- Raised by the step when the host's next 48 bits are no program record (R56, U14). Safe (log 12). -/
  | notARecord (why : DecodeError)
  deriving DecidableEq, Repr

/-- Who moves in a step: the host, the engine, or the hardware reset input (R9, R48, R123). -/
inductive Turn where
  | host | engine | reset
  deriving DecidableEq, Repr

/-- `snap`, the operand copy taken at acceptance (R34). -/
structure Snapshot where
  a : Wide512
  m : Wide
  x1 : Wide
  y1 : Wide
  x2 : Wide
  y2 : Wide
  k : Wide
  seed : Wide
  seedValid : Bool
  seedFail : Bool
  vmodel : Bool
  deriving DecidableEq, Repr

/-- The running command: `busy_op` and `snap` (R33), present exactly while BUSY = 1. -/
structure Running where
  cmd : Command
  snap : Snapshot
  deriving DecidableEq, Repr

structure State where
  /-- CTRL.VMODEL (R23). -/
  vmodel : Bool
  /-- CTRL.IE (R23). -/
  ie : Bool
  /-- STATUS.DONE (R24). -/
  done : Bool
  /-- STATUS.ERR (R24). -/
  err : Bool
  /-- STATUS.READY (R24). -/
  ready : Bool
  /-- STATUS.ONCURVE (R24). -/
  onCurve : Bool
  /-- STATUS.REJ (R24). -/
  rej : Bool
  /-- ERRCODE.FATAL (R25). -/
  fatalCode : Code
  /-- ERRCODE.REJ (R25). -/
  rejCode : Code
  /-- CMD, the last accepted command word (R26). -/
  cmd : Word
  /-- SEED_CTRL.VALID (R27). -/
  seedValid : Bool
  /-- SEED_CTRL.FAIL (R27). -/
  seedFail : Bool
  /-- The operand registers (R28, R29). -/
  a : Wide512
  m : Wide
  x1 : Wide
  y1 : Wide
  x2 : Wide
  y2 : Wide
  k : Wide
  seed : Wide
  /-- The result registers (R30). -/
  r : Wide
  rx : Wide
  ry : Wide
  /-- The base point parameters G_X, G_Y, read through GX and GY (R8, R31). No step writes them (log 6). -/
  gx : Wide
  gy : Wide
  /-- `busy_op` and `snap` (R33, R34). -/
  running : Option Running
  /-- `init_left`, the initialisation cycles still to run (R33, R125). -/
  initLeft : Nat
  /-- The parameter INIT_CYCLES (R8). No step writes it (log 5). -/
  initCycles : Nat
  /-- The host program (R95). No step writes it (log 1). -/
  program : List Record
  /-- The host's position in its program (R95). -/
  pos : Nat
  /-- The data the host's last read returned (R97, log 2). -/
  rdata : Word
  /-- The turns already settled, next first: the model's own field (log 3). -/
  turns : List Turn
  /-- How many free values have been drawn: the model's own field (log 3). -/
  tick : Nat
  deriving DecidableEq, Repr

/-- The core with every register at its reset value (R124) for the given parameters, with the host before an empty
program and no turn settled. READY is 0: the engine raises it in its own step (R125, log 5). -/
def State.powerOn (gx gy : Wide) (initCycles : Nat) : State where
  vmodel := true
  ie := false
  done := false
  err := false
  ready := false
  onCurve := false
  rej := false
  fatalCode := 0#8
  rejCode := 0#8
  cmd := 0#32
  seedValid := false
  seedFail := false
  a := 0#512
  m := 0#256
  x1 := 0#256
  y1 := 0#256
  x2 := 0#256
  y2 := 0#256
  k := 0#256
  seed := 0#256
  r := 0#256
  rx := 0#256
  ry := 0#256
  gx := gx
  gy := gy
  running := none
  initLeft := initCycles
  initCycles := initCycles
  program := []
  pos := 0
  rdata := 0#32
  turns := []
  tick := 0

/-- The machine right after the hardware reset (R123, R124), with the default base point of D16 and the free
INIT_CYCLES. -/
def State.reset : State := State.powerOn Config.gX Config.gY Config.initCycles

end Sys2Proof.Machine
end

