-- ==== Sys2Proof/Machine/Arith.lean ====
section
/-!
DEFINITION. The arithmetic of the core on unbounded integers (R11, R67): the field prime, reduction, the modular
inverse by the extended Euclidean algorithm, the curve constant D, point addition, scalar multiplication, the
membership test and the clamp. Every failure is the fatal error the rule names.
-/

namespace Sys2Proof.Machine

/-- P = 2^255 - 19 (R2). -/
def fieldPrime : Nat := 0x7FFFFFFFFFFFFFFFFFFFFFFFFFFFFFFFFFFFFFFFFFFFFFFFFFFFFFFFFFFFFFED

/-- D = -121665 * inverse(121666) mod P, by its value (R5, log 18). -/
def curveD : Nat := 0x52036CEE2B6FFE738CC740797779E89800700A4D4141D8AB75EB4DCA135978A3

/-- `reduce(a) = a mod P`, the Euclidean modulo (R11, R68). -/
def reduce (a : Int) : Nat := (a % (fieldPrime : Int)).toNat

/-- The loop of R69 on (old_r, r, old_s, s), answering the last (old_r, old_s); old_r - (old_r div r) * r is
old_r mod r (R11). The first argument bounds the iterations (log 16). -/
def euclidLoop : Nat → Nat → Nat → Int → Int → Nat × Int
  | 0, oldR, _, oldS, _ => (oldR, oldS)
  | fuel + 1, oldR, r, oldS, s =>
    if r = 0 then (oldR, oldS)
    else euclidLoop fuel r (oldR % r) s (oldS - (oldR / r : Nat) * s)

/-- `modInverse(a, m)` (R69). The loop starts with r = m and lowers r in every iteration, so m + 1 iterations are
enough. -/
def modInverse (a m : Nat) : Except FatalCode Nat :=
  if m = 0 then .error .badModulus
  else if m = 1 then .ok 0
  else if (euclidLoop (m + 1) (a % m) m 1 0).1 ≠ 1 then .error .nonInvertible
  else .ok ((euclidLoop (m + 1) (a % m) m 1 0).2 % (m : Int)).toNat

/-- `inv_P` (R15, R69). -/
def invP (a : Nat) : Except FatalCode Nat := modInverse a fieldPrime

/-- An affine point (R4). -/
structure Point where
  x : Nat
  y : Nat
  deriving DecidableEq, Repr

/-- The identity point (0, 1) (R4). -/
def identityPoint : Point := ⟨0, 1⟩

/-- `t` of R73. -/
def addT (p q : Point) : Nat := (curveD * p.x * q.x * p.y * q.y) % fieldPrime

/-- The numerators of R73. -/
def addNumX (p q : Point) : Nat := (p.x * q.y + q.x * p.y) % fieldPrime
def addNumY (p q : Point) : Nat := (p.y * q.y + p.x * q.x) % fieldPrime

/-- The denominators of R73. -/
def addDenX (p q : Point) : Nat := (1 + addT p q) % fieldPrime
def addDenY (p q : Point) : Nat := reduce (1 - (addT p q : Int))

/-- `PointAdd` (R73): the x denominator is inverted first. -/
def pointAdd (p q : Point) : Except FatalCode Point :=
  match invP (addDenX p q) with
  | .error e => .error e
  | .ok ix =>
    match invP (addDenY p q) with
    | .error e => .error e
    | .ok iy => .ok ⟨(addNumX p q * ix) % fieldPrime, (addNumY p q * iy) % fieldPrime⟩

/-- The addition of one iteration of R80: only when the scalar's lowest bit is 1. -/
def addIfOdd (k : Nat) (result addend : Point) : Except FatalCode Point :=
  if k % 2 = 1 then pointAdd result addend else .ok result

/-- The loop of R80 on (k, result, addend). The first argument bounds the iterations (log 16). -/
def scalarLoop : Nat → Nat → Point → Point → Except FatalCode Point
  | 0, _, result, _ => .ok result
  | fuel + 1, k, result, addend =>
    if k = 0 then .ok result
    else
      match addIfOdd k result addend with
      | .error e => .error e
      | .ok result' =>
        match pointAdd addend addend with
        | .error e => .error e
        | .ok addend' => scalarLoop fuel (k / 2) result' addend'

/-- `ScalarMul(k, p)` (R80). k iterations are enough, since the loop runs bitlen(k) times (R81). -/
def scalarMul (k : Nat) (p : Point) : Except FatalCode Point := scalarLoop k k identityPoint p

/-- `OnCurve((x, y), model)` (R90): the twisted Edwards equation for model 1, the source-literal one for 0. -/
def pointOnCurve (p : Point) (model : Bool) : Bool :=
  if model then
    ((fieldPrime - 1) * (p.x * p.x) + p.y * p.y) % fieldPrime
      == (1 + curveD * (p.x * p.x) * (p.y * p.y)) % fieldPrime
  else
    (p.y * p.y) % fieldPrime == (p.x * p.x * p.x + 486662 * (p.x * p.x) + p.x) % fieldPrime

/-- Seed byte i (R29). -/
def seedByte (seed : Wide) (i : Nat) : BitVec 8 := seed.extractLsb' (8 * i) 8

/-- Byte i of the seed after the three masks of R87. -/
def clampedByte (seed : Wide) (i : Nat) : BitVec 8 :=
  if i = 0 then seedByte seed 0 &&& 0xF8#8
  else if i = 31 then (seedByte seed 31 &&& 0x7F#8) ||| 0x40#8
  else seedByte seed i

/-- The big-endian unsigned integer of the first n bytes. -/
def bigEndian (byte : Nat → BitVec 8) : Nat → Nat
  | 0 => 0
  | n + 1 => bigEndian byte n * 256 + (byte n).toNat

/-- `kraw` of R87: the 32 clamped bytes, byte 0 most significant. -/
def clampRaw (seed : Wide) : Nat := bigEndian (clampedByte seed) 32

/-- `key` of R87. The branch for a negative kraw is never taken (U3) and is left out. -/
def clampKey (seed : Wide) : Nat := clampRaw seed % fieldPrime

end Sys2Proof.Machine
end

