-- ==== Sys2Proof/Machine/Flags.lean ====
section
/-!
DEFINITION. The status bits and the control words a read answers (R24, R25, R32, R98), the event codes (R103), and
the functions of fields that are no fields: STATUS.BUSY and `irq`.
-/

namespace Sys2Proof.Machine

/-- The code of a fatal error (R103). -/
def FatalCode.code : FatalCode → Code
  | .nonInvertible => 0x01#8
  | .badModulus => 0x02#8
  | .notOnCurve => 0x03#8
  | .entropyFail => 0x04#8

/-- The code of a rejection (R103). -/
def RejectCode.code : RejectCode → Code
  | .illegalCmd => 0x01#8
  | .busy => 0x02#8
  | .notReady => 0x03#8
  | .locked => 0x04#8

/-- STATUS.BUSY = 1 exactly when a command is running (R33). -/
def State.busy (s : State) : Bool := s.running.isSome

/-- The interrupt output (R32, R116). -/
def State.irq (s : State) : Bool := s.ie && (s.done || s.rej)

/-- A bit as a vector of width 1. -/
def bit (b : Bool) : BitVec 1 := BitVec.ofBool b

/-- CTRL as read: SRST and the reserved bits read 0 (R23, R98). -/
def ctrlWord (s : State) : Word := 0#29 ++ bit s.ie ++ bit s.vmodel ++ 0#1

/-- STATUS as read (R24, R98). -/
def statusWord (s : State) : Word :=
  0#26 ++ bit s.rej ++ bit s.onCurve ++ bit s.ready ++ bit s.err ++ bit s.done ++ bit s.busy

/-- ERRCODE as read (R25, R98). -/
def errcodeWord (s : State) : Word := 0#16 ++ s.rejCode ++ s.fatalCode

/-- SEED_CTRL as read (R27, R98). -/
def seedCtrlWord (s : State) : Word := 0#30 ++ bit s.seedFail ++ bit s.seedValid

end Sys2Proof.Machine
end

