-- ==== Sys2Proof/Machine/Operands.lean ====
section
/-!
DEFINITION. The register map (R21), the words of wide registers (R42), what a read of a word answers (R98) and what
a write of a word stores (R99), and the operands a command reads from its snapshot (R34, R57).
-/

namespace Sys2Proof.Machine

/-- The registers of R21. -/
inductive RegName where
  | id | ctrl | status | errcode | cmd | seedCtrl
  | a | m | x1 | y1 | x2 | y2 | k | seed
  | r | rx | ry
  | prime | dconst | gx | gy
  deriving DecidableEq, Repr

/-- One row of the register map. -/
structure MapRow where
  reg : RegName
  base : Nat
  words : Nat
  deriving DecidableEq, Repr

/-- The table of R21. Every offset in no row is unmapped (R41). -/
def registerMap : List MapRow :=
  [⟨.id, 0x000, 1⟩, ⟨.ctrl, 0x004, 1⟩, ⟨.status, 0x008, 1⟩, ⟨.errcode, 0x00C, 1⟩, ⟨.cmd, 0x010, 1⟩,
   ⟨.seedCtrl, 0x014, 1⟩,
   ⟨.a, 0x040, 16⟩, ⟨.m, 0x080, 8⟩, ⟨.x1, 0x0A0, 8⟩, ⟨.y1, 0x0C0, 8⟩, ⟨.x2, 0x0E0, 8⟩, ⟨.y2, 0x100, 8⟩,
   ⟨.k, 0x120, 8⟩, ⟨.seed, 0x140, 8⟩,
   ⟨.r, 0x180, 8⟩, ⟨.rx, 0x1A0, 8⟩, ⟨.ry, 0x1C0, 8⟩,
   ⟨.prime, 0x200, 8⟩, ⟨.dconst, 0x220, 8⟩, ⟨.gx, 0x240, 8⟩, ⟨.gy, 0x260, 8⟩]

/-- The first row that holds offset `o`, as the register and the number of the word in it. -/
def findWord : List MapRow → Nat → Option (RegName × Nat)
  | [], _ => none
  | row :: rest, o =>
    if row.base ≤ o ∧ o < row.base + 4 * row.words then some (row.reg, (o - row.base) / 4)
    else findWord rest o

/-- The word an access reaches, or why it gets ERROR (R40, R41). -/
def locate (off : Offset) : Except BusCause (RegName × Nat) :=
  if off.toNat % 4 ≠ 0 then .error .misaligned
  else
    match findWord registerMap off.toNat with
    | none => .error .unmapped
    | some w => .ok w

/-- Word j of a wide register: its bits 32j+31 to 32j (R42). -/
def wideWord {n : Nat} (v : BitVec n) (j : Nat) : Word := v.extractLsb' (32 * j) 32

/-- A wide register with its word j replaced (R42, R44). -/
def setWideWord {n : Nat} (v : BitVec n) (j : Nat) (w : Word) : BitVec n :=
  (v &&& ~~~((0xFFFFFFFF#32).setWidth n <<< (32 * j))) ||| (w.setWidth n <<< (32 * j))

/-- The word a read answers (R98). DCONST is D once READY = 1 and any value before (R31, U7). -/
def readWord (s : State) : RegName → Nat → Word
  | .id, _ => 0xED255190#32
  | .ctrl, _ => ctrlWord s
  | .status, _ => statusWord s
  | .errcode, _ => errcodeWord s
  | .cmd, _ => s.cmd
  | .seedCtrl, _ => seedCtrlWord s
  | .a, j => wideWord s.a j
  | .m, j => wideWord s.m j
  | .x1, j => wideWord s.x1 j
  | .y1, j => wideWord s.y1 j
  | .x2, j => wideWord s.x2 j
  | .y2, j => wideWord s.y2 j
  | .k, j => wideWord s.k j
  | .seed, j => wideWord s.seed j
  | .r, j => wideWord s.r j
  | .rx, j => wideWord s.rx j
  | .ry, j => wideWord s.ry j
  | .prime, j => wideWord (BitVec.ofNat 256 fieldPrime) j
  | .dconst, j => if s.ready then wideWord (BitVec.ofNat 256 curveD) j else Config.freeWord s.tick
  | .gx, j => wideWord s.gx j
  | .gy, j => wideWord s.gy j

/-- Whether a read answers a free value and so uses one up (log 7). -/
def readsFree (s : State) (reg : RegName) : Bool := reg == .dconst && !s.ready

/-- A 256-bit operand as an unsigned integer (`val_u`, R10, R57). -/
def valU (v : Wide) : Nat := v.toNat

/-- The 512-bit operand of REDUCE as a two's-complement integer (`val_s`, R10, R57). -/
def valS (v : Wide512) : Int := v.toInt

/-- `bits_256` (R10). -/
def bits256 (n : Nat) : Wide := BitVec.ofNat 256 n

/-- The first and the second point operand (R77, R78, R83, R91). -/
def Snapshot.point1 (sn : Snapshot) : Point := ⟨valU sn.x1, valU sn.y1⟩
def Snapshot.point2 (sn : Snapshot) : Point := ⟨valU sn.x2, valU sn.y2⟩

/-- The base point G (R17, R31). -/
def State.basePoint (s : State) : Point := ⟨valU s.gx, valU s.gy⟩

/-- The values copied at acceptance (R34). -/
def State.capture (s : State) : Snapshot where
  a := s.a
  m := s.m
  x1 := s.x1
  y1 := s.y1
  x2 := s.x2
  y2 := s.y2
  k := s.k
  seed := s.seed
  seedValid := s.seedValid
  seedFail := s.seedFail
  vmodel := s.vmodel

end Sys2Proof.Machine
end

