-- ==== Sys2Proof/Machine/Ops.lean ====
section
/-!
DEFINITION. The operations the meanings share: the events of the core (fatal error, rejection, completion,
acceptance, reset; R104 to R108, R126), the host's accesses, and the choice of who moves next.
-/

namespace Sys2Proof.Machine

/-! ### Events of the engine -/

/-- A completion, after the register writes of the command rule (R107). -/
def State.finish (s : State) : State := { s with running := none, done := true }

/-- Taking a fatal error: the core is locked and nothing else is written (R108, R112, R113). -/
def State.fatal (c : FatalCode) (s : State) : State :=
  { s with running := none, done := true, err := true, fatalCode := c.code }

/-- The completion step of command `c` on its snapshot. It exists only while the engine runs `c` (R107, log 9). -/
def completing (c : Command) (s : State) (k : Snapshot → State) : Host.Outcome State Fault Refusal :=
  match s.running with
  | some r => if r.cmd = c then .next (k r.snap) else .fault .commandNotRunning
  | none => .fault .commandNotRunning

/-- A command that ends by writing a point result to RX and RY (R77, R78, R83). -/
def State.finishPoint (s : State) : Except FatalCode Point → State
  | .ok p => { s with rx := bits256 p.x, ry := bits256 p.y }.finish
  | .error e => s.fatal e

/-- One engine step of the initialisation: one cycle of the countdown, and READY in the step in which it reaches
0, which is the first step if INIT_CYCLES = 0 (R125, log 5). -/
def State.initStep (s : State) : State :=
  { s with initLeft := s.initLeft - 1, ready := decide (s.initLeft ≤ 1) }

/-! ### Issuing a command -/

/-- Acceptance of command `c` by the word `w` (R104). -/
def State.accept (c : Command) (w : Word) (s : State) : State :=
  { s with cmd := w, running := some ⟨c, s.capture⟩, done := false }

/-- Taking a rejection (R105). -/
def State.reject (c : RejectCode) (s : State) : State := { s with rej := true, rejCode := c.code }

/-- `issue(w)` (R104), with the rejection priority of R106. -/
def State.issue (w : Word) (s : State) : State :=
  if s.err then s.reject .locked
  else if s.ready = false then s.reject .notReady
  else if s.busy then s.reject .busy
  else
    match decodeCommand w with
    | .error _ => s.reject .illegalCmd
    | .ok c => s.accept c w

/-! ### Reset -/

/-- The reset of the core, hardware or soft: every register takes its reset value, a running command is abandoned
and the initialisation runs again (R123, R124, R126). The parameters, the host and the interleaving are not the
core's state and stay (R20, log 4). -/
def State.coreReset (s : State) : State :=
  { State.powerOn s.gx s.gy s.initCycles with
    program := s.program, pos := s.pos, rdata := s.rdata, turns := s.turns, tick := s.tick }

/-! ### The host's accesses -/

/-- The host has completed its record and goes on to the next (R95). -/
def State.advance (s : State) : State := { s with pos := s.pos + 1 }

/-- The word read from the bus is returned to the host (R97). A free value read is used up (log 7). -/
def State.returning (reg : RegName) (j : Nat) (s : State) : State :=
  { s with rdata := readWord s reg j, tick := if readsFree s reg then s.tick + 1 else s.tick }

/-- One read access (R97): the ERROR response of a read carries 0 (R110). -/
def busRead (off : Offset) (s : State) : Except Fault State :=
  match locate off with
  | .error c => .error (.busError c off (some 0#32))
  | .ok (reg, j) => .ok (s.returning reg j)

/-- What a write of `v` does to the register word it reaches (R99); `none` is the ERROR of a read-only register.
Reserved bits of `v` are ignored (R23, R24, R27). -/
def writeWord (reg : RegName) (j : Nat) (v : Word) (s : State) : Option State :=
  match reg with
  | .cmd => some (s.issue v)
  | .ctrl =>
    some (if v.getLsbD 0 then s.coreReset else { s with vmodel := v.getLsbD 1, ie := v.getLsbD 2 })
  | .status =>
    some { s with
      done := s.done && !v.getLsbD 1
      rej := s.rej && !v.getLsbD 5
      rejCode := if v.getLsbD 5 then 0#8 else s.rejCode }
  | .seedCtrl => some { s with seedValid := v.getLsbD 0, seedFail := v.getLsbD 1 }
  | .a => some { s with a := setWideWord s.a j v }
  | .m => some { s with m := setWideWord s.m j v }
  | .x1 => some { s with x1 := setWideWord s.x1 j v }
  | .y1 => some { s with y1 := setWideWord s.y1 j v }
  | .x2 => some { s with x2 := setWideWord s.x2 j v }
  | .y2 => some { s with y2 := setWideWord s.y2 j v }
  | .k => some { s with k := setWideWord s.k j v }
  | .seed => some { s with seed := setWideWord s.seed j v }
  | .id | .errcode | .r | .rx | .ry | .prime | .dconst | .gx | .gy => none

/-- One write access (R99): a write that gets ERROR changes nothing (R110). -/
def busWrite (off : Offset) (v : Word) (s : State) : Except Fault State :=
  match locate off with
  | .error c => .error (.busError c off none)
  | .ok (reg, j) =>
    match writeWord reg j v s with
    | none => .error (.busError .readOnly off none)
    | some t => .ok t

/-! ### Who moves next -/

/-- The event after the host turns of a draw: a hardware reset or the engine's turn (R123, log 4). -/
def freeEvent (n : Nat) : Turn := if Config.freeReset n then .reset else .engine

/-- The turns of draw `n`, the first apart: a free number of host turns, then the event (R48, U10, log 3). -/
def freeTurns (n : Nat) : Turn × List Turn :=
  match Config.freeWait n with
  | 0 => (freeEvent n, [])
  | k + 1 => (.host, List.replicate k .host ++ [freeEvent n])

/-- The agent of this step, and the state with that turn used up; when no turn is settled, turns are drawn. -/
def State.takeTurn (s : State) : Turn × State :=
  match s.turns with
  | t :: ts => (t, { s with turns := ts })
  | [] => ((freeTurns s.tick).1, { s with turns := (freeTurns s.tick).2, tick := s.tick + 1 })

end Sys2Proof.Machine
end

