-- ==== Sys2Proof/Machine/Field.lean ====
section
/-!
DEFINITION. The field arithmetic commands: REDUCE and INV (R70, R71). A meaning of a command is its completion step
(R107); issuing it is part of WR (R104, log 9).
-/

namespace Sys2Proof.Machine

/-- REDUCE (R70). -/
def execReduce (s : State) : Host.Outcome State Fault Refusal :=
  completing .reduce s fun sn => { s with r := bits256 (reduce (valS sn.a)) }.finish

/-- INV (R71): a = A[255:0], m = M. -/
def execInv (s : State) : Host.Outcome State Fault Refusal :=
  completing .inv s fun sn =>
    match modInverse (sn.a.extractLsb' 0 256).toNat (valU sn.m) with
    | .ok x => { s with r := bits256 x }.finish
    | .error e => s.fatal e

end Sys2Proof.Machine
end

