-- ==== Sys2Proof/Machine/HostAccess.lean ====
section
/-!
DEFINITION. The host's transactions: RD, WR and POLL (R97, R99, R100).
-/

namespace Sys2Proof.Machine

/-- RD (R97). -/
def execRd (off : Offset) (s : State) : Host.Outcome State Fault Refusal :=
  match busRead off s with
  | .error f => .fault f
  | .ok t => .next t.advance

/-- WR (R99). -/
def execWr (off : Offset) (data : Word) (s : State) : Host.Outcome State Fault Refusal :=
  match busWrite off data s with
  | .error f => .fault f
  | .ok t => .next t.advance

/-- One read of POLL (R100): the host goes on only when every bit of the mask is set in the word read. Otherwise
it repeats the record, and other turns may come between (log 15). -/
def execPoll (off : Offset) (mask : Word) (s : State) : Host.Outcome State Fault Refusal :=
  match busRead off s with
  | .error f => .fault f
  | .ok t => .next (if t.rdata &&& mask = mask then t.advance else t)

end Sys2Proof.Machine
end

