-- ==== Sys2Proof/Machine/KeyAgreement.lean ====
section
/-!
DEFINITION. The key agreement commands: CLAMP, DERIVE and CHECK (R89, R91, R92).
-/

namespace Sys2Proof.Machine

/-- CLAMP (R89). -/
def execClamp (s : State) : Host.Outcome State Fault Refusal :=
  completing .clamp s fun sn =>
    if sn.seedFail || !sn.seedValid then s.fatal .entropyFail
    else
      { s with
        r := bits256 (clampRaw sn.seed)
        k := bits256 (clampKey sn.seed)
        seed := 0#256
        seedValid := false }.finish

/-- DERIVE (R92): K times the base point, which must pass the membership test. -/
def execDerive (s : State) : Host.Outcome State Fault Refusal :=
  completing .derive s fun sn =>
    match scalarMul (valU sn.k) s.basePoint with
    | .error e => s.fatal e
    | .ok p =>
      if pointOnCurve p sn.vmodel then { s with onCurve := true }.finishPoint (.ok p)
      else { s with onCurve := false }.fatal .notOnCurve

/-- CHECK (R91). -/
def execCheck (s : State) : Host.Outcome State Fault Refusal :=
  completing .check s fun sn =>
    { s with
      r := bits256 (pointOnCurve sn.point1 sn.vmodel).toNat
      onCurve := pointOnCurve sn.point1 sn.vmodel }.finish

end Sys2Proof.Machine
end

