-- ==== Sys2Proof/Machine/Points.lean ====
section
/-!
DEFINITION. The point commands: PADD, PDBL and SMUL (R77, R78, R83).
-/

namespace Sys2Proof.Machine

/-- PADD (R77). -/
def execPadd (s : State) : Host.Outcome State Fault Refusal :=
  completing .padd s fun sn => s.finishPoint (pointAdd sn.point1 sn.point2)

/-- PDBL (R78): addition of the first point with itself. -/
def execPdbl (s : State) : Host.Outcome State Fault Refusal :=
  completing .pdbl s fun sn => s.finishPoint (pointAdd sn.point1 sn.point1)

/-- SMUL (R83). It tests no membership (R85). -/
def execSmul (s : State) : Host.Outcome State Fault Refusal :=
  completing .smul s fun sn => s.finishPoint (scalarMul (valU sn.k) sn.point1)

end Sys2Proof.Machine
end

