-- ==== Sys2Proof/Machine/Dispatch.lean ====
section
/-!
DEFINITION. One arm per instruction.
-/

namespace Sys2Proof.Machine

def exec (i : Instr) (s : State) : Host.Outcome State Fault Refusal :=
  match i with
  | .reduce => Sys2Proof.Machine.execReduce s
  | .inv => Sys2Proof.Machine.execInv s
  | .padd => Sys2Proof.Machine.execPadd s
  | .pdbl => Sys2Proof.Machine.execPdbl s
  | .smul => Sys2Proof.Machine.execSmul s
  | .clamp => Sys2Proof.Machine.execClamp s
  | .derive => Sys2Proof.Machine.execDerive s
  | .check => Sys2Proof.Machine.execCheck s
  | .rd off => Sys2Proof.Machine.execRd off s
  | .wr off data => Sys2Proof.Machine.execWr off data s
  | .poll off mask => Sys2Proof.Machine.execPoll off mask s

end Sys2Proof.Machine
end

