-- ==== Sys2Proof/Machine/Agents.lean ====
section
/-!
DEFINITION. What each agent does in its turn (R9), and how an instruction is placed so that the next step runs it.
-/

namespace Sys2Proof.Machine

/-- The host performs the access of its next record (R95). After the last record it does nothing (log 14); a word
that is no record is refused (U14). -/
def hostTurn (s : State) : Host.Outcome State Fault Refusal :=
  match s.program[s.pos]? with
  | none => .next s
  | some w =>
    match decodeRecord w with
    | .error e => .refused (.notARecord e)
    | .ok i => exec i s

/-- The engine runs one cycle of the initialisation (R125), or completes the running command (R107), or has
nothing to do (R122). -/
def engineTurn (s : State) : Host.Outcome State Fault Refusal :=
  if s.ready = false then .next s.initStep
  else
    match s.running with
    | none => .next s
    | some r => exec r.cmd.toInstr s

/-- The hardware reset input (R123). -/
def resetTurn (s : State) : Host.Outcome State Fault Refusal := .next s.coreReset

/-- One turn of the given agent. -/
def agentTurn (t : Turn) (s : State) : Host.Outcome State Fault Refusal :=
  match t with
  | .host => hostTurn s
  | .engine => engineTurn s
  | .reset => resetTurn s

/-- The record `w` placed at the host's position, with the next turn the host's. -/
def State.placeRecord (w : Record) (s : State) : State :=
  { s with
    program := s.program.take s.pos ++ w :: s.program.drop (s.pos + 1)
    pos := (s.program.take s.pos).length
    turns := .host :: s.turns }

/-- The command `c` placed in the engine: READY = 1, no lock, accepted on the registers as they stand, with the
next turn the engine's (log 17). -/
def State.placeCommand (c : Command) (s : State) : State :=
  { s with
    ready := true, initLeft := 0, err := false, fatalCode := 0#8
    turns := .engine :: s.turns }.accept c c.word

/-- The offset of CMD (R21). -/
def cmdOffset : Offset := 0x010#12

/-- An instruction placed where the next step takes it: a command in the engine, a record in the program. A 32-bit
word that is no command is placed as the CMD write that the core rejects (R60); no other length exists (R54). -/
def State.placeWord (nbits w : Nat) (s : State) : State :=
  if nbits = 32 then
    match decodeCommand (BitVec.ofNat 32 w) with
    | .ok c => s.placeCommand c
    | .error _ => s.placeRecord (mkRecord 1#2 cmdOffset (BitVec.ofNat 32 w))
  else s.placeRecord (BitVec.ofNat 48 w)

end Sys2Proof.Machine
end

