-- ==== Sys2Proof/Machine/Step.lean ====
section
/-!
DEFINITION. One step of the machine: the agent whose turn it is moves (R48).
-/

namespace Sys2Proof.Machine

/-- One step in the single total order of host and engine steps (R48). -/
def step (s : State) : Host.Outcome State Fault Refusal :=
  agentTurn s.takeTurn.1 s.takeTurn.2

/-- The state with the instruction placed so that the very next step runs it (log 17). -/
def State.withFetchWord (s : State) (nbits w : Nat) : State := s.placeWord nbits w

end Sys2Proof.Machine
end

