-- ==== Sys2Proof/Machine/Assembler.lean ====
section
/-!
DEFINITION. The host-program syntax: the statements and the pseudo-instructions of R62 to R65 with their
expansions. The text itself (names, comments, spelling of numbers) is not parsed (log 19).
-/

namespace Sys2Proof.Machine

/-- A statement of a host program. A register operand is a register and a word number (`V.w<j>`, R62). -/
inductive Stmt where
  | rd (reg : RegName) (j : Nat)
  | wr (reg : RegName) (j : Nat) (value : Int)
  | poll (reg : RegName) (j : Nat) (mask : Int)
  | command (c : Command)
  | wr256 (reg : RegName) (value : Int)
  | wr512 (value : Int)
  | rd256 (reg : RegName)
  | wrSeed (bytes : List (BitVec 8))
  | wait | waitReady | ack | ackRej | softReset | seedOk | seedFail | mont | edw
  deriving DecidableEq, Repr

/-- The row of a register in the map. -/
def mapRow (reg : RegName) : List MapRow → Option MapRow
  | [] => none
  | row :: rest => if row.reg = reg then some row else mapRow reg rest

/-- base(V) + 4j, for a word the register has (R62). -/
def wordOffset (reg : RegName) (j : Nat) : Option Offset :=
  match mapRow reg registerMap with
  | none => none
  | some row => if j < row.words then some (BitVec.ofNat 12 (row.base + 4 * j)) else none

/-- A 32-bit value; outside [-2^31, 2^32) the assembler refuses it (R62). -/
def value32 (v : Int) : Option Word :=
  if -2147483648 ≤ v ∧ v < 4294967296 then some (BitVec.ofInt 32 v) else none

/-- `WR V.w<j>` for the n words of a wide value, in rising order (R64). -/
def writeWords (reg : RegName) {n : Nat} (v : BitVec n) : Nat → Option (List Instr)
  | 0 => some []
  | j + 1 =>
    match writeWords reg v j, wordOffset reg j with
    | some is, some off => some (is ++ [.wr off (wideWord v j)])
    | _, _ => none

/-- `RD V.w<j>` for the first n words (R64). -/
def readWords (reg : RegName) : Nat → Option (List Instr)
  | 0 => some []
  | j + 1 =>
    match readWords reg j, wordOffset reg j with
    | some is, some off => some (is ++ [.rd off])
    | _, _ => none

/-- sum(b_i * 2^(8i)), the seed value of WRSEED (R64). -/
def seedValue : List (BitVec 8) → Nat
  | [] => 0
  | b :: bs => b.toNat + 256 * seedValue bs

/-- One WR of a constant to a single-word register. -/
def wrConst (reg : RegName) (w : Word) : Option (List Instr) :=
  match wordOffset reg 0 with
  | some off => some [.wr off w]
  | none => none

/-- POLL of STATUS. -/
def pollStatus (mask : Word) : Option (List Instr) :=
  match wordOffset .status 0 with
  | some off => some [.poll off mask]
  | none => none

/-- The transactions a statement stands for; `none` where the assembler refuses it (R62 to R65). -/
def expand : Stmt → Option (List Instr)
  | .rd reg j =>
    match wordOffset reg j with
    | some off => some [.rd off]
    | none => none
  | .wr reg j value =>
    match wordOffset reg j, value32 value with
    | some off, some v => some [.wr off v]
    | _, _ => none
  | .poll reg j mask =>
    match wordOffset reg j, value32 mask with
    | some off, some m => some [.poll off m]
    | _, _ => none
  | .command c => wrConst .cmd c.word
  | .wr256 reg value => writeWords reg (BitVec.ofInt 256 value) 8
  | .wr512 value => writeWords .a (BitVec.ofInt 512 value) 16
  | .rd256 reg => readWords reg 8
  | .wrSeed bytes =>
    if bytes.length = 32 then writeWords .seed (BitVec.ofNat 256 (seedValue bytes)) 8 else none
  | .wait => pollStatus 0x00000002#32
  | .waitReady => pollStatus 0x00000008#32
  | .ack => wrConst .status 0x00000002#32
  | .ackRej => wrConst .status 0x00000020#32
  | .softReset => wrConst .ctrl 0x00000001#32
  | .seedOk => wrConst .seedCtrl 0x00000001#32
  | .seedFail => wrConst .seedCtrl 0x00000002#32
  | .mont => wrConst .ctrl 0x00000000#32
  | .edw => wrConst .ctrl 0x00000002#32

/-- The TXN records of a host program, statement by statement (R56, R62); `none` where one is refused. -/
def assemble : List Stmt → Option (List Record)
  | [] => some []
  | st :: rest =>
    match expand st, assemble rest with
    | some is, some ws => some (is.map (fun i => BitVec.ofNat 48 (encode i).word) ++ ws)
    | _, _ => none

end Sys2Proof.Machine
end

