-- ==== Sys2Proof/Safety.lean ====
section
/-!
DEFINITION. What counts as a run's end and as a safe state, in the terms the statements use: the final states of a
run (R95), and the invariant of the core.
-/

namespace Sys2Proof.Machine

/-- The run of a program has ended: every record has completed and the engine has no pending step (R95). -/
def State.finished (s : State) : Bool := s.program.length ≤ s.pos && !s.busy && s.ready

/-- A step went on to a next state. -/
def completes (o : Host.Outcome State Fault Refusal) : Bool :=
  match o with
  | .next _ => true
  | .fault _ => false
  | .refused _ => false

/-- The event codes belong to their status bits and are codes of R103 (R25, U16). -/
def State.CodesInv (s : State) : Prop :=
  (s.err = false ↔ s.fatalCode = 0#8) ∧ s.fatalCode.toNat ≤ 4
    ∧ (s.rej = false ↔ s.rejCode = 0#8) ∧ s.rejCode.toNat ≤ 4

/-- A running command was accepted by a ready, unlocked core, has cleared DONE, and is the one CMD shows; CMD is 0
or a legal command word (R26, R104, R113). -/
def State.EngineInv (s : State) : Prop :=
  (∀ r, s.running = some r → s.ready = true ∧ s.err = false ∧ s.done = false ∧ s.cmd = r.cmd.word)
    ∧ (s.cmd = 0#32 ∨ ∃ c : Command, s.cmd = c.word)

/-- Before READY no command has run: no completion flag, no error, no result (R124, R125). -/
def State.ResetInv (s : State) : Prop :=
  (s.ready = true → s.initLeft = 0)
    ∧ (s.ready = false → s.running = none ∧ s.done = false ∧ s.err = false ∧ s.onCurve = false
        ∧ s.cmd = 0#32 ∧ s.r = 0#256 ∧ s.rx = 0#256 ∧ s.ry = 0#256)

/-- RX and RY hold field elements (R3, R30). -/
def State.ResultInv (s : State) : Prop :=
  s.rx.toNat < fieldPrime ∧ s.ry.toNat < fieldPrime

/-- The host's position is in its program or at its end (R95). -/
def State.HostInv (s : State) : Prop := s.pos ≤ s.program.length

/-- The invariant of the machine: every step keeps it. -/
structure State.Inv (s : State) : Prop where
  codes : s.CodesInv
  engine : s.EngineInv
  afterReset : s.ResetInv
  results : s.ResultInv
  host : s.HostInv

/-! ### The register window in numbers (R21, R41) -/

/-- The offset of word j of the register at `base` (R42). -/
def wordAt (base j : Nat) : Offset := BitVec.ofNat 12 (base + 4 * j)

/-- The aligned offsets R21 lists: every other offset gets ERROR. -/
def offsetListed (off : Offset) : Prop :=
  off.toNat % 4 = 0 ∧
    (off.toNat ≤ 0x014 ∨ (0x040 ≤ off.toNat ∧ off.toNat ≤ 0x15C) ∨ (0x180 ≤ off.toNat ∧ off.toNat ≤ 0x1DC)
      ∨ (0x200 ≤ off.toNat ∧ off.toNat ≤ 0x27C))

/-- The aligned offsets of the operand registers A to SEED (R21). -/
def operandOffset (off : Offset) : Prop := off.toNat % 4 = 0 ∧ 0x040 ≤ off.toNat ∧ off.toNat ≤ 0x15C

/-- The words of DCONST (R21). -/
def dconstOffset (off : Offset) : Prop := 0x220 ≤ off.toNat ∧ off.toNat ≤ 0x23C

/-- RD of each word of the register at `base` completes and returns that word of `value`. -/
def RdAnswers (base words : Nat) {n : Nat} (value : State → BitVec n) : Prop :=
  ∀ (s : State) (j : Nat), j < words →
    exec (.rd (wordAt base j)) s
      = .next { s with rdata := (value s).extractLsb' (32 * j) 32, pos := s.pos + 1 }

/-- WR to each word of the register at `base` completes, stores the word there and keeps the register's other
words; `set` puts a whole value into the register and changes nothing else. -/
def WrStores (base words : Nat) {n : Nat} (get : State → BitVec n) (set : BitVec n → State → State) : Prop :=
  ∀ (s : State) (j : Nat) (v : Word), j < words →
    ∃ x : BitVec n, exec (.wr (wordAt base j) v) s = .next { set x s with pos := s.pos + 1 }
      ∧ x.extractLsb' (32 * j) 32 = v
      ∧ ∀ i < words, i ≠ j → x.extractLsb' (32 * i) 32 = (get s).extractLsb' (32 * i) 32

/-- The value of a 256-bit operand register. -/
def operand256 (s : State) : RegName → Option Wide
  | .m => some s.m
  | .x1 => some s.x1
  | .y1 => some s.y1
  | .x2 => some s.x2
  | .y2 => some s.y2
  | .k => some s.k
  | .seed => some s.seed
  | _ => none

/-- A 256-bit operand register replaced by a value. -/
def setOperand256 (s : State) (reg : RegName) (x : Wide) : State :=
  match reg with
  | .m => { s with m := x }
  | .x1 => { s with x1 := x }
  | .y1 => { s with y1 := x }
  | .x2 => { s with x2 := x }
  | .y2 => { s with y2 := x }
  | .k => { s with k := x }
  | .seed => { s with seed := x }
  | _ => s

/-- The 256 bits that `RD256` of a register reads (R21, R64): of A the low half; DCONST only once READY = 1. -/
def readable256 (s : State) : RegName → Option Wide
  | .a => some (s.a.extractLsb' 0 256)
  | .r => some s.r
  | .rx => some s.rx
  | .ry => some s.ry
  | .prime => some (BitVec.ofNat 256 fieldPrime)
  | .dconst => if s.ready then some (BitVec.ofNat 256 curveD) else none
  | .gx => some s.gx
  | .gy => some s.gy
  | reg => operand256 s reg

/-- The host is about to run `prog` from its start, in its next `n` turns. -/
def State.runsProgram (s : State) (prog : List Record) (n : Nat) : Prop :=
  s.program = prog ∧ s.pos = 0 ∧ s.turns = List.replicate n .host

/-! ### The state at reset, and an idle core -/

/-- Every register of the core at its reset value (R124). -/
def State.AtReset (t : State) : Prop :=
  t.vmodel = true ∧ t.ie = false ∧ t.done = false ∧ t.err = false ∧ t.ready = false ∧ t.onCurve = false
    ∧ t.rej = false ∧ t.fatalCode = 0#8 ∧ t.rejCode = 0#8 ∧ t.cmd = 0#32 ∧ t.seedValid = false ∧ t.seedFail = false
    ∧ t.a = 0#512 ∧ t.m = 0#256 ∧ t.x1 = 0#256 ∧ t.y1 = 0#256 ∧ t.x2 = 0#256 ∧ t.y2 = 0#256 ∧ t.k = 0#256
    ∧ t.seed = 0#256 ∧ t.r = 0#256 ∧ t.rx = 0#256 ∧ t.ry = 0#256 ∧ t.running = none ∧ t.initLeft = t.initCycles

/-- The parameters of R8 are the same. -/
def SameParams (s t : State) : Prop := t.gx = s.gx ∧ t.gy = s.gy ∧ t.initCycles = s.initCycles

/-- The host's program and the interleaving are the same. -/
def SameSurroundings (s t : State) : Prop :=
  t.program = s.program ∧ t.turns = s.turns ∧ t.tick = s.tick

/-- RX, RY and R are the same. -/
def SameResults (s t : State) : Prop := t.r = s.r ∧ t.rx = s.rx ∧ t.ry = s.ry

/-- The core accepts the next legal command word: ready, unlocked, idle (R104). -/
def State.acceptsCommand (s : State) : Prop := s.ready = true ∧ s.err = false ∧ s.running = none

/-- The host's next record is a write of CTRL with SRST = 1 (R126). -/
def State.hostSoftResets (s : State) : Prop :=
  ∃ w v, s.program[s.pos]? = some w ∧ decodeRecord w = .ok (.wr 0x004#12 v) ∧ v.getLsbD 0 = true

/-! ### Points, by equations over the integers (R73, R90) -/

/-- D * x1 * x2 * y1 * y2, unreduced. -/
def productT (p q : Point) : Int := curveD * p.x * q.x * p.y * q.y

/-- A denominator of R73 is 0 modulo P. -/
def denominatorZero (p q : Point) : Prop :=
  (1 + productT p q) % fieldPrime = 0 ∨ (1 - productT p q) % fieldPrime = 0

/-- `r` is the sum of `p` and `q` by the addition law of R73: reduced, and numerator = denominator times result. -/
structure IsPointSum (p q r : Point) : Prop where
  x_reduced : r.x < fieldPrime
  y_reduced : r.y < fieldPrime
  x_law : ((r.x : Int) * (1 + productT p q)) % fieldPrime = ((p.x : Int) * q.y + q.x * p.y) % fieldPrime
  y_law : ((r.y : Int) * (1 - productT p q)) % fieldPrime = ((p.y : Int) * q.y + p.x * q.x) % fieldPrime

/-- The curve equation of R90: -x^2 + y^2 = 1 + D x^2 y^2 for model 1, y^2 = x^3 + 486662 x^2 + x for model 0. -/
def SatisfiesCurve (p : Point) (model : Bool) : Prop :=
  if model then
    (-((p.x : Int) * p.x) + p.y * p.y) % fieldPrime
      = (1 + curveD * ((p.x : Int) * p.x) * ((p.y : Int) * p.y)) % fieldPrime
  else
    ((p.y : Int) * p.y) % fieldPrime = ((p.x : Int) * p.x * p.x + 486662 * ((p.x : Int) * p.x) + p.x) % fieldPrime

/-- Both coordinates modulo P. -/
def reducedPoint (p : Point) : Point := ⟨p.x % fieldPrime, p.y % fieldPrime⟩

/-- `n` doublings one after another. -/
def doublings : Nat → Point → Except FatalCode Point
  | 0, p => .ok p
  | n + 1, p =>
    match doublings n p with
    | .error e => .error e
    | .ok q => pointAdd q q

end Sys2Proof.Machine
end

