-- ==== Sys2Proof/Certificates/Slice0/Obligations.lean ====
section
/-!
DEFINITION. The statements for the provers. Each docstring names the rules it formalises.
-/

open Sys2Proof Sys2Proof.Machine

/-! ## Encoding -/

/-- R55, R56, R58: decoding the words of any instruction gives it back, with every operand at every value. -/
def Obligations.DecodeOfEncodeGivesBackEveryInstruction : Prop :=
  ∀ i : Instr, decodeTableWord (encode i).nbits (encode i).word = some i

/-- R56: which 48-bit words are records; and a decoded record or command word encodes back to the same bits, so no
two words stand for one instruction (R55, R59). -/
def Obligations.RecordsAreTheWellFormedWords : Prop :=
  (∀ w : Record, (∃ i, decodeRecord w = .ok i) ↔
    (w.extractLsb' 46 2 ≠ 3#2 ∧ w.extractLsb' 44 2 = 0#2
      ∧ (w.extractLsb' 46 2 = 0#2 → w.extractLsb' 0 32 = 0#32)))
  ∧ (∀ (w : Record) (i : Instr), decodeRecord w = .ok i → encode i = ⟨48, w.toNat⟩)
  ∧ (∀ (w : Word) (c : Command), decodeCommand w = .ok c → encode c.toInstr = ⟨32, w.toNat⟩)

/-- R59: the decoder of command words, as a total function: each command's one word, and ILLEGAL for all others,
which are the words with a bit of [31:8] set or OPCODE 0x00 or 0x09 to 0xFF (R60). -/
def Obligations.CommandWordsDecodeByTheOpcodeMap : Prop :=
  ∀ w : Word,
    (decodeCommand w = .ok .reduce ↔ w = 0x00000001#32)
    ∧ (decodeCommand w = .ok .inv ↔ w = 0x00000002#32)
    ∧ (decodeCommand w = .ok .padd ↔ w = 0x00000003#32)
    ∧ (decodeCommand w = .ok .pdbl ↔ w = 0x00000004#32)
    ∧ (decodeCommand w = .ok .smul ↔ w = 0x00000005#32)
    ∧ (decodeCommand w = .ok .clamp ↔ w = 0x00000006#32)
    ∧ (decodeCommand w = .ok .derive ↔ w = 0x00000007#32)
    ∧ (decodeCommand w = .ok .check ↔ w = 0x00000008#32)
    ∧ (decodeCommand w = .error .illegalCommand ↔
        w.extractLsb' 8 24 ≠ 0#24 ∨ (w.extractLsb' 0 8).toNat = 0 ∨ 9 ≤ (w.extractLsb' 0 8).toNat)

/-- R56, R58, R62, R63: words written out from the spec's own examples decode to the instructions they stand for. -/
def Obligations.ExampleWordsOfTheSpecDecode : Prop :=
  decodeTableWord 32 0x00000001 = some .reduce
  ∧ decodeTableWord 32 0x00000008 = some .check
  ∧ decodeTableWord 32 0x00000101 = none
  ∧ decodeTableWord 48 0x401000000001 = some (.wr 0x010#12 0x00000001#32)
  ∧ decodeTableWord 48 0x40A000000009 = some (.wr 0x0A0#12 0x00000009#32)
  ∧ decodeTableWord 48 0x000800000000 = some (.rd 0x008#12)
  ∧ decodeTableWord 48 0x800800000002 = some (.poll 0x008#12 0x00000002#32)
  ∧ decodeTableWord 48 0xC00800000002 = none

/-- R63, R65: each command mnemonic and each control pseudo-instruction assembles to its one record. -/
def Obligations.MnemonicsAssembleToTheirRecords : Prop :=
  [Command.reduce, .inv, .padd, .pdbl, .smul, .clamp, .derive, .check].map (fun c => assemble [.command c])
    = [some [0x401000000001#48], some [0x401000000002#48], some [0x401000000003#48], some [0x401000000004#48],
       some [0x401000000005#48], some [0x401000000006#48], some [0x401000000007#48], some [0x401000000008#48]]
  ∧ assemble [.wait, .waitReady, .ack, .ackRej, .softReset, .seedOk, .seedFail, .mont, .edw]
    = some [0x800800000002#48, 0x800800000008#48, 0x400800000002#48, 0x400800000020#48, 0x400400000001#48,
       0x401400000001#48, 0x401400000002#48, 0x400400000000#48, 0x400400000002#48]

/-- R62, R64: the transactions that the plain and the wide statements stand for. For every register of the map, with its
base offset and its number of words: RD, WR and POLL of a word are that transaction at base + 4j with the 32-bit value;
WR and POLL of a value outside [-2^31, 2^32) are refused; WR256 and RD256 are the transactions of words 0 to 7 in rising
order. WR512 is the 16 writes of A, WRSEED is WR256 of SEED. A word that the register has not, WR256 or RD256 of a
register with fewer than 8 words and a WRSEED of other than 32 bytes are refused (log 19). -/
def Obligations.StatementsExpandToTheirTransactions : Prop :=
  (∀ row ∈ registerMap, ∀ (j : Nat) (v : Int),
    (j < row.words →
      expand (.rd row.reg j) = some [.rd (wordAt row.base j)]
      ∧ (-2 ^ 31 ≤ v → v < 2 ^ 32 →
          expand (.wr row.reg j v) = some [.wr (wordAt row.base j) (BitVec.ofInt 32 v)]
          ∧ expand (.poll row.reg j v) = some [.poll (wordAt row.base j) (BitVec.ofInt 32 v)]))
    ∧ (v < -2 ^ 31 ∨ 2 ^ 32 ≤ v → expand (.wr row.reg j v) = none ∧ expand (.poll row.reg j v) = none)
    ∧ (row.words ≤ j →
      expand (.rd row.reg j) = none ∧ expand (.wr row.reg j v) = none ∧ expand (.poll row.reg j v) = none)
    ∧ (8 ≤ row.words →
      expand (.wr256 row.reg v) = some ((List.range 8).map fun i =>
        .wr (wordAt row.base i) ((BitVec.ofInt 256 v).extractLsb' (32 * i) 32))
      ∧ expand (.rd256 row.reg) = some ((List.range 8).map fun i => .rd (wordAt row.base i)))
    ∧ (row.words < 8 → expand (.wr256 row.reg v) = none ∧ expand (.rd256 row.reg) = none))
  ∧ (∀ v : Int, expand (.wr512 v) = some ((List.range 16).map fun i =>
      .wr (wordAt 0x040 i) ((BitVec.ofInt 512 v).extractLsb' (32 * i) 32)))
  ∧ ∀ bytes : List (BitVec 8),
    (bytes.length = 32 → expand (.wrSeed bytes) = expand (.wr256 .seed (seedValue bytes)))
    ∧ (bytes.length ≠ 32 → expand (.wrSeed bytes) = none)

/-- R42, R64: the records of a wide statement, run by as many host turns. `WR256 V, value` leaves bits_256(value) in V,
for every 256-bit operand register V, and in the low half of A for V = A, which keeps its high half; `WR512 A, value`
leaves bits_512(value) in A; each changes nothing else and is assembled for every value. The read j of `RD256 V` returns
word j of V, for every register V of 256 bits and for A, whose low half it reads (DCONST once READY = 1). WRSEED is
WR256 of SEED with the value that has seed byte i in bits 8i+7 to 8i (R29). -/
def Obligations.WideStatementsMoveTheWholeValue : Prop :=
  (∀ reg ∈ [RegName.m, .x1, .y1, .x2, .y2, .k, .seed], ∀ value : Int,
    ∃ prog, assemble [.wr256 reg value] = some prog ∧ ∀ s : State, s.runsProgram prog 8 →
      Sys2Proof.core.run 8 s
        = .next { setOperand256 s reg (BitVec.ofInt 256 value) with pos := 8, turns := [] })
  ∧ (∀ value : Int, ∃ prog, assemble [.wr256 .a value] = some prog ∧ ∀ s : State, s.runsProgram prog 8 →
      Sys2Proof.core.run 8 s
        = .next { s with a := s.a.extractLsb' 256 256 ++ BitVec.ofInt 256 value, pos := 8, turns := [] })
  ∧ (∀ value : Int, ∃ prog, assemble [.wr512 value] = some prog ∧ ∀ s : State, s.runsProgram prog 16 →
      Sys2Proof.core.run 16 s = .next { s with a := BitVec.ofInt 512 value, pos := 16, turns := [] })
  ∧ (∀ (reg : RegName) (x : Wide) (s : State), readable256 s reg = some x →
    ∃ prog, assemble [.rd256 reg] = some prog ∧ (s.runsProgram prog 8 → ∀ j < 8,
      Sys2Proof.core.run (j + 1) s
        = .next { s with
            rdata := x.extractLsb' (32 * j) 32, pos := j + 1, turns := List.replicate (7 - j) .host }))
  ∧ ∀ (bytes : List (BitVec 8)) (i : Nat) (h : i < bytes.length), bytes.length = 32 →
      expand (.wrSeed bytes) = expand (.wr256 .seed (seedValue bytes))
      ∧ (BitVec.ofNat 256 (seedValue bytes)).extractLsb' (8 * i) 8 = bytes[i]

/-! ## Steps -/

/-- R48, R95, R107: the step of a settled host turn is exec of the record's instruction, and the step of a settled
engine turn with a running command is exec of that command, each on the state with the turn used up (the turns and
what exec of a command means are the model's, logs 3 and 9). -/
def Obligations.StepRunsTheDecodedInstruction : Prop :=
  (∀ (s : State) (ts : List Turn) (w : Record) (i : Instr),
    s.turns = .host :: ts → s.program[s.pos]? = some w → decodeRecord w = .ok i →
    step s = exec i { s with turns := ts })
  ∧ (∀ (s : State) (ts : List Turn) (r : Running),
    s.turns = .engine :: ts → s.ready = true → s.running = some r →
    step s = exec r.cmd.toInstr { s with turns := ts })

/-- The turns that run no instruction: the host after its last record (log 14), the host at a word that is no
record (U14), the engine with nothing to do (R122). -/
def Obligations.TurnsThatRunNoInstruction : Prop :=
  (∀ (s : State) (ts : List Turn), s.turns = .host :: ts → s.program.length ≤ s.pos →
    step s = .next { s with turns := ts })
  ∧ (∀ (s : State) (ts : List Turn) (w : Record) (e : DecodeError),
    s.turns = .host :: ts → s.program[s.pos]? = some w → decodeRecord w = .error e →
    step s = .refused (.notARecord e))
  ∧ (∀ (s : State) (ts : List Turn), s.turns = .engine :: ts → s.ready = true → s.running = none →
    step s = .next { s with turns := ts })

/-! ## Reset and initialisation -/

/-- R124, R21: what reset leaves in every register of the core. GX and GY hold the parameters, which State.reset takes
at the defaults of D16 (log 6). A word of DCONST is unspecified while READY = 0 and has no clause. -/
def Obligations.ResetValuesOfEveryRegister : Prop :=
  State.reset.AtReset
  ∧ State.reset.gx = Config.gX ∧ State.reset.gy = Config.gY
  ∧ readWord State.reset .id 0 = 0xED255190#32
  ∧ readWord State.reset .ctrl 0 = 0x00000002#32
  ∧ readWord State.reset .status 0 = 0x00000000#32
  ∧ readWord State.reset .errcode 0 = 0x00000000#32
  ∧ readWord State.reset .cmd 0 = 0x00000000#32
  ∧ readWord State.reset .seedCtrl 0 = 0x00000000#32
  ∧ (∀ j < 16, readWord State.reset .a j = 0#32)
  ∧ (∀ reg ∈ [RegName.m, .x1, .y1, .x2, .y2, .k, .seed, .r, .rx, .ry], ∀ j < 8, readWord State.reset reg j = 0#32)
  ∧ (∀ j < 8, readWord State.reset .prime j
      = (BitVec.ofNat 256 (2 ^ 255 - 19)).extractLsb' (32 * j) 32)
  ∧ (∀ j < 8, readWord State.reset .gx j
      = (15112221349535400772501151409588531511454012693041857206046113283949847762202#256).extractLsb' (32 * j) 32)
  ∧ (∀ j < 8, readWord State.reset .gy j
      = (46316835694926478169428394003475163141307993866256225615783033603165251855960#256).extractLsb' (32 * j) 32)
  ∧ State.reset.irq = false

/-- R126: a CTRL write with SRST = 1 completes in every state and has the effect of the hardware reset: every
register at its reset value, the write's other bits not kept, a running command abandoned. The host goes on to its
next record (log 4). -/
def Obligations.SoftResetResetsTheCore : Prop :=
  ∀ (s : State) (v : Word), v.getLsbD 0 = true →
    ∃ t, exec (.wr 0x004#12 v) s = .next t ∧ t.AtReset ∧ SameParams s t ∧ SameSurroundings s t
      ∧ t.rdata = s.rdata ∧ t.pos = s.pos + 1

/-- R123: a hardware reset turn puts every register at its reset value, whatever the core does; the host keeps its
place (log 4). -/
def Obligations.HardwareResetResetsTheCore : Prop :=
  ∀ (s : State) (ts : List Turn), s.turns = .reset :: ts →
    ∃ t, step s = .next t ∧ t.AtReset ∧ SameParams s t ∧ t.program = s.program ∧ t.turns = ts
      ∧ t.tick = s.tick ∧ t.rdata = s.rdata ∧ t.pos = s.pos

/-- R125: the engine counts INIT_CYCLES down and raises READY in the step in which the count reaches 0; with a
count of 0 its first step does (log 5). Nothing else changes. -/
def Obligations.InitialisationRaisesReady : Prop :=
  ∀ (s : State) (ts : List Turn), s.ready = false → s.turns = List.replicate (max 1 s.initLeft) .engine ++ ts →
    (∀ n < max 1 s.initLeft, ∃ u, Sys2Proof.core.run n s = .next u ∧ u.ready = false ∧ u.initLeft = s.initLeft - n)
    ∧ Sys2Proof.core.run (max 1 s.initLeft) s = .next { s with ready := true, initLeft := 0, turns := ts }

/-! ## Field arithmetic -/

/-- R5: D * 121666 = -121665 modulo P, with D reduced (the model holds D by its value, log 18). -/
def Obligations.CurveConstantIsTheQuotient : Prop :=
  ((curveD : Int) * 121666) % (2 ^ 255 - 19) = (-121665) % (2 ^ 255 - 19) ∧ curveD < 2 ^ 255 - 19

/-- R68: reduce(a) is the Euclidean a mod P, in [0, P), and for a negative a it is what adding P until the sum is
not negative gives. -/
def Obligations.ReduceIsTheEuclideanModulo : Prop :=
  ∀ a : Int, reduce a < fieldPrime ∧ (reduce a : Int) = a % (2 ^ 255 - 19)
    ∧ ∀ n : Nat, 0 ≤ a + n * (2 ^ 255 - 19) → a + n * (2 ^ 255 - 19) < 2 ^ 255 - 19 →
        (reduce a : Int) = a + n * (2 ^ 255 - 19)

/-- R70: REDUCE always completes: R holds the signed A modulo P, DONE is set, BUSY cleared, nothing else changes. -/
def Obligations.ReduceCompletes : Prop :=
  ∀ (s : State) (sn : Snapshot), s.running = some ⟨.reduce, sn⟩ →
    ∃ x : Wide, exec .reduce s = .next { s with r := x, done := true, running := none }
      ∧ (x.toNat : Int) = sn.a.toInt % (2 ^ 255 - 19)

/-- R69, R71: INV of a = A[255:0] and m = M with gcd(a, m) = 1 completes: R holds the unique x in [0, m) with
a * x = 1 modulo m (0 for m = 1), DONE is set, BUSY cleared, nothing else changes. -/
def Obligations.InvCompletesOnCoprimeOperands : Prop :=
  ∀ (s : State) (sn : Snapshot), s.running = some ⟨.inv, sn⟩ → sn.m.toNat ≠ 0 →
    Nat.gcd (sn.a.extractLsb' 0 256).toNat sn.m.toNat = 1 →
    ∃ x : Wide, exec .inv s = .next { s with r := x, done := true, running := none }
      ∧ x.toNat < sn.m.toNat
      ∧ ((sn.a.extractLsb' 0 256).toNat * x.toNat) % sn.m.toNat = 1 % sn.m.toNat
      ∧ ∀ y < sn.m.toNat, ((sn.a.extractLsb' 0 256).toNat * y) % sn.m.toNat = 1 % sn.m.toNat → y = x.toNat

/-- R71, R108: INV fails with BAD_MODULUS for m = 0 and with NONINVERTIBLE for m >= 2 with gcd(a, m) other than 1:
the core is locked, R keeps its value. -/
def Obligations.InvFailsOnOtherOperands : Prop :=
  ∀ (s : State) (sn : Snapshot), s.running = some ⟨.inv, sn⟩ →
    (sn.m.toNat = 0 →
      exec .inv s = .next { s with running := none, done := true, err := true, fatalCode := 0x02#8 })
    ∧ (2 ≤ sn.m.toNat → Nat.gcd (sn.a.extractLsb' 0 256).toNat sn.m.toNat ≠ 1 →
      exec .inv s = .next { s with running := none, done := true, err := true, fatalCode := 0x01#8 })

/-- R69: modulo P the inverse fails exactly when a mod P = 0, and otherwise is the inverse. -/
def Obligations.InverseModuloPExistsExactlyForNonzero : Prop :=
  ∀ a : Nat,
    (a % fieldPrime = 0 → invP a = .error .nonInvertible)
    ∧ (a % fieldPrime ≠ 0 → ∃ x, invP a = .ok x ∧ x < fieldPrime ∧ (a * x) % fieldPrime = 1)

/-! ## Points -/

/-- R73, R77: PADD completes whenever neither denominator is 0 modulo P: RX, RY hold the sum by the addition law,
DONE is set, BUSY cleared, nothing else changes. -/
def Obligations.PaddCompletesOnNonzeroDenominators : Prop :=
  ∀ (s : State) (sn : Snapshot), s.running = some ⟨.padd, sn⟩ → ¬ denominatorZero sn.point1 sn.point2 →
    ∃ x y : Wide, exec .padd s = .next { s with rx := x, ry := y, done := true, running := none }
      ∧ IsPointSum sn.point1 sn.point2 ⟨x.toNat, y.toNat⟩

/-- R73, R77, R108: PADD fails with NONINVERTIBLE when a denominator is 0 modulo P: the core is locked, RX and RY
keep their values. -/
def Obligations.PaddFailsOnZeroDenominator : Prop :=
  ∀ (s : State) (sn : Snapshot), s.running = some ⟨.padd, sn⟩ → denominatorZero sn.point1 sn.point2 →
    exec .padd s = .next { s with running := none, done := true, err := true, fatalCode := 0x01#8 }

/-- R74: coordinates may be any integers; only their values modulo P matter; every result is reduced. -/
def Obligations.PointAddReducesItsInputs : Prop :=
  ∀ p q : Point, pointAdd p q = pointAdd (reducedPoint p) (reducedPoint q)
    ∧ ∀ r, pointAdd p q = .ok r → r.x < fieldPrime ∧ r.y < fieldPrime

/-- R75: the identity is neutral and never fails, and addition is commutative, failures included. -/
def Obligations.PointAddHasAnIdentityAndCommutes : Prop :=
  (∀ q : Point, pointAdd ⟨0, 1⟩ q = .ok (reducedPoint q) ∧ pointAdd q ⟨0, 1⟩ = .ok (reducedPoint q))
  ∧ ∀ p q : Point, pointAdd p q = pointAdd q p

/-- R76: for two points of the twisted Edwards curve no denominator is 0, so the addition never fails; and the sum
lies on the curve. -/
def Obligations.AdditionOnTheCurveNeverFails : Prop :=
  ∀ p q : Point, SatisfiesCurve p true → SatisfiesCurve q true →
    ∃ r, pointAdd p q = .ok r ∧ IsPointSum p q r ∧ SatisfiesCurve r true

/-- R79: doubling never raises NONINVERTIBLE, for any point, on the curve or off it. -/
def Obligations.DoublingNeverFails : Prop :=
  ∀ p : Point, ∃ q, pointAdd p p = .ok q

/-- R78, R79: PDBL always completes: RX, RY hold the sum of the first point with itself, DONE is set, BUSY cleared,
nothing else changes. -/
def Obligations.PdblCompletes : Prop :=
  ∀ (s : State) (sn : Snapshot), s.running = some ⟨.pdbl, sn⟩ →
    ∃ x y : Wide, exec .pdbl s = .next { s with rx := x, ry := y, done := true, running := none }
      ∧ IsPointSum sn.point1 sn.point1 ⟨x.toNat, y.toNat⟩

/-! ## Scalar multiplication -/

/-- R81: the loop of R80 needs no more than bitlen(k) iterations: any bound of at least bitlen(k) gives the result that
the model's bound of k iterations gives (log 16). -/
def Obligations.ScalarLoopNeedsAtMostBitLengthIterations : Prop :=
  ∀ (k fuel : Nat) (p result : Point), k < 2 ^ fuel →
    scalarLoop fuel k result p = scalarLoop k k result p

/-- R80, R84: what scalarMul gives for every k. It is the loop started with the identity and p; a loop with k = 0 answers
its result; with k > 0 it doubles the addend, adds the addend to the result first when k is odd, fails when that addition
fails, and goes on with k div 2. So an even scalar is half of it times the double. The loop is written with its bound k,
which is never the limit (log 16). k = 0 gives the identity and, for a point with reduced coordinates, 1 the point, 2 its
double, 3 the double plus the point. -/
def Obligations.ScalarMulFollowsItsRecursion : Prop :=
  (∀ (k : Nat) (p : Point), scalarMul k p = scalarLoop k k ⟨0, 1⟩ p)
  ∧ (∀ result addend : Point, scalarLoop 0 0 result addend = .ok result)
  ∧ (∀ (k : Nat) (result addend : Point), k ≠ 0 → ∃ double, pointAdd addend addend = .ok double
    ∧ (k % 2 = 0 → scalarLoop k k result addend = scalarLoop (k / 2) (k / 2) result double)
    ∧ (k % 2 = 1 →
      (∀ sum, pointAdd result addend = .ok sum →
        scalarLoop k k result addend = scalarLoop (k / 2) (k / 2) sum double)
      ∧ ∀ e, pointAdd result addend = .error e → scalarLoop k k result addend = .error e))
  ∧ (∀ (k : Nat) (p double : Point), pointAdd p p = .ok double → scalarMul (2 * k) p = scalarMul k double)
  ∧ ∀ p : Point, p.x < fieldPrime → p.y < fieldPrime →
    scalarMul 0 p = .ok ⟨0, 1⟩ ∧ scalarMul 1 p = .ok p ∧ scalarMul 2 p = pointAdd p p
    ∧ ∀ d, pointAdd p p = .ok d → scalarMul 3 p = pointAdd p d ∧ scalarMul 3 p = pointAdd d p

/-- R82: a scalar with at most one bit set never fails, for any point: 0 gives the identity and 2^j gives j doublings
of the reduced point. -/
def Obligations.PowerOfTwoScalarsNeverFail : Prop :=
  ∀ (p : Point) (j : Nat), scalarMul 0 p = .ok ⟨0, 1⟩
    ∧ ∃ q, doublings j (reducedPoint p) = .ok q ∧ scalarMul (2 ^ j) p = .ok q

/-- R83, R85: SMUL completes whenever ScalarMul does, with no test of the point: RX, RY hold its result, DONE is
set, BUSY cleared, nothing else changes; when ScalarMul fails, which it does only with NONINVERTIBLE, the core is
locked and RX, RY keep their values (R108). -/
def Obligations.SmulWritesTheScalarMultiple : Prop :=
  ∀ (s : State) (sn : Snapshot), s.running = some ⟨.smul, sn⟩ →
    (∀ q, scalarMul sn.k.toNat sn.point1 = .ok q →
      exec .smul s
        = .next { s with rx := BitVec.ofNat 256 q.x, ry := BitVec.ofNat 256 q.y, done := true, running := none })
    ∧ (∀ e, scalarMul sn.k.toNat sn.point1 = .error e → e = .nonInvertible ∧
      exec .smul s = .next { s with running := none, done := true, err := true, fatalCode := 0x01#8 })

/-- R76, R82: SMUL of a point of the twisted Edwards curve completes for every K, with a point of the curve. -/
def Obligations.SmulOfACurvePointCompletes : Prop :=
  ∀ (s : State) (sn : Snapshot), s.running = some ⟨.smul, sn⟩ → SatisfiesCurve sn.point1 true →
    ∃ x y : Wide, exec .smul s = .next { s with rx := x, ry := y, done := true, running := none }
      ∧ SatisfiesCurve ⟨x.toNat, y.toNat⟩ true ∧ x.toNat < fieldPrime ∧ y.toNat < fieldPrime

/-! ## Key agreement -/

/-- R87, R89: CLAMP with VALID = 1 and FAIL = 0 completes: R holds the clamped bytes with byte 0 most significant,
K holds R modulo P, SEED and VALID are cleared, DONE is set, BUSY cleared, nothing else changes. -/
def Obligations.ClampCompletesOnAValidSeed : Prop :=
  ∀ (s : State) (sn : Snapshot), s.running = some ⟨.clamp, sn⟩ → sn.seedValid = true → sn.seedFail = false →
    ∃ raw key : Wide,
      exec .clamp s = .next { s with
        r := raw, k := key, seed := 0#256, seedValid := false, done := true, running := none }
      ∧ raw.extractLsb' 248 8 = sn.seed.extractLsb' 0 8 &&& 0xF8#8
      ∧ raw.extractLsb' 0 8 = (sn.seed.extractLsb' 248 8 &&& 0x7F#8) ||| 0x40#8
      ∧ (∀ i, 1 ≤ i → i ≤ 30 → raw.extractLsb' (8 * (31 - i)) 8 = sn.seed.extractLsb' (8 * i) 8)
      ∧ key.toNat = raw.toNat % (2 ^ 255 - 19)

/-- R87, R88: the range of the clamped integer, its fixed bits, and what the reduction does to it: nothing when byte
0 is below 0x80, and otherwise it takes P away, which changes the lowest and the highest byte. -/
def Obligations.ClampedIntegerIsBelowTwicePrime : Prop :=
  ∀ seed : Wide,
    64 ≤ clampRaw seed
    ∧ clampRaw seed ≤ 0xF8FFFFFFFFFFFFFFFFFFFFFFFFFFFFFFFFFFFFFFFFFFFFFFFFFFFFFFFFFFFF7F
    ∧ clampRaw seed < 2 * fieldPrime
    ∧ clampRaw seed / 2 ^ 248 % 8 = 0 ∧ clampRaw seed / 2 ^ 7 % 2 = 0 ∧ clampRaw seed / 2 ^ 6 % 2 = 1
    ∧ ((seed.extractLsb' 0 8).toNat < 0x80 → clampRaw seed < fieldPrime ∧ clampKey seed = clampRaw seed)
    ∧ (0x80 ≤ (seed.extractLsb' 0 8).toNat →
        2 ^ 255 ≤ clampRaw seed ∧ clampKey seed + fieldPrime = clampRaw seed
        ∧ clampKey seed % 256 ≠ clampRaw seed % 256 ∧ clampKey seed / 2 ^ 248 ≠ clampRaw seed / 2 ^ 248)

/-- R89, R108: CLAMP fails with ENTROPY_FAIL when FAIL = 1 or VALID = 0: K, R, SEED and SEED_CTRL keep their
values. -/
def Obligations.ClampFailsWithoutAValidSeed : Prop :=
  ∀ (s : State) (sn : Snapshot), s.running = some ⟨.clamp, sn⟩ → sn.seedFail = true ∨ sn.seedValid = false →
    exec .clamp s = .next { s with running := none, done := true, err := true, fatalCode := 0x04#8 }

/-- R90, R91: CHECK always completes: R and ONCURVE say whether the first point satisfies the equation that VMODEL
selects, DONE is set, BUSY cleared, nothing else changes. -/
def Obligations.CheckCompletes : Prop :=
  ∀ (s : State) (sn : Snapshot), s.running = some ⟨.check, sn⟩ →
    ∃ ok : Bool, (ok = true ↔ SatisfiesCurve sn.point1 sn.vmodel) ∧
      exec .check s = .next { s with
        r := if ok then 1#256 else 0#256, onCurve := ok, done := true, running := none }

/-- R92: DERIVE completes when K * G exists and satisfies the equation that VMODEL selects: RX, RY hold it, ONCURVE
and DONE are set, BUSY cleared, nothing else changes. -/
def Obligations.DeriveCompletesOnAPassingKey : Prop :=
  ∀ (s : State) (sn : Snapshot) (q : Point), s.running = some ⟨.derive, sn⟩ →
    scalarMul sn.k.toNat s.basePoint = .ok q → SatisfiesCurve q sn.vmodel →
    exec .derive s = .next { s with
      rx := BitVec.ofNat 256 q.x, ry := BitVec.ofNat 256 q.y, onCurve := true, done := true, running := none }

/-- R92, R108, R111: DERIVE fails with NONINVERTIBLE when K * G does (ONCURVE kept), and with NOT_ON_CURVE when K * G
fails the membership test (ONCURVE cleared); RX and RY keep their values. -/
def Obligations.DeriveFailsOtherwise : Prop :=
  ∀ (s : State) (sn : Snapshot), s.running = some ⟨.derive, sn⟩ →
    (∀ e, scalarMul sn.k.toNat s.basePoint = .error e →
      exec .derive s = .next { s with running := none, done := true, err := true, fatalCode := 0x01#8 })
    ∧ (∀ q, scalarMul sn.k.toNat s.basePoint = .ok q → ¬ SatisfiesCurve q sn.vmodel →
      exec .derive s
        = .next { s with onCurve := false, running := none, done := true, err := true, fatalCode := 0x03#8 })

/-- R92, R76: with VMODEL = 1 and a base point on the twisted Edwards curve DERIVE completes for every K, with a
public key on the curve; K = 0 gives (0, 1) and K = 1 gives G modulo P. -/
def Obligations.DeriveFromACurveBasePointCompletes : Prop :=
  ∀ (s : State) (sn : Snapshot), s.running = some ⟨.derive, sn⟩ → sn.vmodel = true →
    SatisfiesCurve s.basePoint true →
    ∃ x y : Wide,
      exec .derive s = .next { s with rx := x, ry := y, onCurve := true, done := true, running := none }
      ∧ SatisfiesCurve ⟨x.toNat, y.toNat⟩ true
      ∧ (sn.k.toNat = 0 → x.toNat = 0 ∧ y.toNat = 1)
      ∧ (sn.k.toNat = 1 → x.toNat = s.gx.toNat % fieldPrime ∧ y.toNat = s.gy.toNat % fieldPrime)

/-- R94: every RX, RY that a DERIVE writes satisfies the curve equation under the VMODEL of its snapshot: where the
completion leaves the core unlocked, they do, and ONCURVE = 1. -/
def Obligations.DerivedPublicKeysAreOnTheCurve : Prop :=
  ∀ (s t : State) (sn : Snapshot), s.running = some ⟨.derive, sn⟩ → exec .derive s = .next t →
    (t.err = false ∨ t.rx ≠ s.rx ∨ t.ry ≠ s.ry) →
    SatisfiesCurve ⟨t.rx.toNat, t.ry.toNat⟩ sn.vmodel ∧ t.onCurve = true

/-! ## Frames and isolation of commands -/

/-- R28, R30, R58, R112: what the completion of a command leaves unchanged. -/
def Obligations.CommandsChangeOnlyTheirResults : Prop :=
  ∀ (c : Command) (s t : State), exec c.toInstr s = .next t →
    SameParams s t ∧ SameSurroundings s t ∧ t.pos = s.pos ∧ t.rdata = s.rdata
    ∧ t.vmodel = s.vmodel ∧ t.ie = s.ie ∧ t.ready = s.ready ∧ t.initLeft = s.initLeft
    ∧ t.rej = s.rej ∧ t.rejCode = s.rejCode ∧ t.cmd = s.cmd ∧ t.seedFail = s.seedFail
    ∧ t.a = s.a ∧ t.m = s.m ∧ t.x1 = s.x1 ∧ t.y1 = s.y1 ∧ t.x2 = s.x2 ∧ t.y2 = s.y2
    ∧ t.running = none ∧ t.done = true
    ∧ (c ≠ .clamp → t.k = s.k ∧ t.seed = s.seed ∧ t.seedValid = s.seedValid)
    ∧ (c = .padd ∨ c = .pdbl ∨ c = .smul ∨ c = .derive → t.r = s.r)
    ∧ (c = .reduce ∨ c = .inv ∨ c = .clamp ∨ c = .check → t.rx = s.rx ∧ t.ry = s.ry)
    ∧ (c ≠ .derive → c ≠ .check → t.onCurve = s.onCurve)
    ∧ (t.fatalCode ≠ s.fatalCode ∨ t.err ≠ s.err →
        SameResults s t ∧ t.k = s.k ∧ t.seed = s.seed ∧ t.seedValid = s.seedValid ∧ t.err = true)

/-- R34, R52, R58, R89: what a command writes depends on its snapshot and the base point alone: for two unlocked states
that run the same command on the same snapshot, whatever their other registers hold, the completions fail alike, and R, RX
and RY, K with SEED and SEED_CTRL.VALID, and ONCURVE end equal in both or keep their values in both. -/
def Obligations.OutcomeDependsOnTheSnapshotAlone : Prop :=
  ∀ (c : Command) (sn : Snapshot) (s1 s2 t1 t2 : State),
    s1.running = some ⟨c, sn⟩ → s2.running = some ⟨c, sn⟩ → s1.gx = s2.gx → s1.gy = s2.gy →
    s1.err = false → s2.err = false → s1.fatalCode = s2.fatalCode →
    exec c.toInstr s1 = .next t1 → exec c.toInstr s2 = .next t2 →
    t1.err = t2.err ∧ t1.fatalCode = t2.fatalCode
    ∧ (t1.r = t2.r ∨ (t1.r = s1.r ∧ t2.r = s2.r))
    ∧ (t1.rx = t2.rx ∧ t1.ry = t2.ry ∨ (t1.rx = s1.rx ∧ t1.ry = s1.ry ∧ t2.rx = s2.rx ∧ t2.ry = s2.ry))
    ∧ (t1.k = t2.k ∧ t1.seed = t2.seed ∧ t1.seedValid = t2.seedValid
      ∨ (t1.k = s1.k ∧ t1.seed = s1.seed ∧ t1.seedValid = s1.seedValid
        ∧ t2.k = s2.k ∧ t2.seed = s2.seed ∧ t2.seedValid = s2.seedValid))
    ∧ (t1.onCurve = t2.onCurve ∨ (t1.onCurve = s1.onCurve ∧ t2.onCurve = s2.onCurve))

/-- R34, R133: no host access but a soft reset changes the running command or its snapshot. -/
def Obligations.HostAccessesKeepTheRunningCommand : Prop :=
  ∀ (s t : State) (off : Offset) (v : Word) (r : Running), s.running = some r →
    (exec (.rd off) s = .next t → t.running = some r)
    ∧ (exec (.poll off v) s = .next t → t.running = some r)
    ∧ (exec (.wr off v) s = .next t → ¬ (off = 0x004#12 ∧ v.getLsbD 0 = true) → t.running = some r)

/-! ## Host accesses -/

/-- R22 to R27, R97, R98: RD of each control register completes with the value of its fields and zeros in the
reserved bits, and changes nothing but the data returned and the host's position. -/
def Obligations.RdOfControlRegisters : Prop :=
  RdAnswers 0x000 1 (fun _ => 0xED255190#32)
  ∧ RdAnswers 0x004 1 (fun s => BitVec.ofNat 32 (2 * s.vmodel.toNat + 4 * s.ie.toNat))
  ∧ RdAnswers 0x008 1 (fun s => BitVec.ofNat 32
      (s.running.isSome.toNat + 2 * s.done.toNat + 4 * s.err.toNat + 8 * s.ready.toNat + 16 * s.onCurve.toNat
        + 32 * s.rej.toNat))
  ∧ RdAnswers 0x00C 1 (fun s => BitVec.ofNat 32 (s.fatalCode.toNat + 256 * s.rejCode.toNat))
  ∧ RdAnswers 0x010 1 (fun s => s.cmd)
  ∧ RdAnswers 0x014 1 (fun s => BitVec.ofNat 32 (s.seedValid.toNat + 2 * s.seedFail.toNat))

/-- R21, R31, R42, R97, R98: RD of each word of each operand, result and constant register completes with that word.
A word of DCONST is D's once READY = 1; before, the RD completes with some word, which is free (log 7). -/
def Obligations.RdOfWideRegisters : Prop :=
  RdAnswers 0x040 16 (fun s => s.a) ∧ RdAnswers 0x080 8 (fun s => s.m)
  ∧ RdAnswers 0x0A0 8 (fun s => s.x1) ∧ RdAnswers 0x0C0 8 (fun s => s.y1)
  ∧ RdAnswers 0x0E0 8 (fun s => s.x2) ∧ RdAnswers 0x100 8 (fun s => s.y2)
  ∧ RdAnswers 0x120 8 (fun s => s.k) ∧ RdAnswers 0x140 8 (fun s => s.seed)
  ∧ RdAnswers 0x180 8 (fun s => s.r) ∧ RdAnswers 0x1A0 8 (fun s => s.rx) ∧ RdAnswers 0x1C0 8 (fun s => s.ry)
  ∧ RdAnswers 0x200 8 (fun _ => BitVec.ofNat 256 (2 ^ 255 - 19))
  ∧ RdAnswers 0x240 8 (fun s => s.gx) ∧ RdAnswers 0x260 8 (fun s => s.gy)
  ∧ ∀ (s : State) (j : Nat), j < 8 →
    (s.ready = true → exec (.rd (wordAt 0x220 j)) s
      = .next { s with rdata := (BitVec.ofNat 256 curveD).extractLsb' (32 * j) 32, pos := s.pos + 1 })
    ∧ (s.ready = false → ∃ (w : Word) (n : Nat), exec (.rd (wordAt 0x220 j)) s
      = .next { s with rdata := w, pos := s.pos + 1, tick := n })

/-- R40, R41, R96, R110: RD, WR and POLL get ERROR at every misaligned and every unmapped offset, a read with data 0;
a WR gets ERROR at every word of a read-only register too (ID, ERRCODE, R, RX, RY, PRIME, DCONST, GX, GY). Nothing
else gets ERROR: every other RD completes, and every other WR. In the model ERROR is a fault (log 8). -/
def Obligations.AccessesFaultExactlyWhereTheMapSays : Prop :=
  ∀ (s : State) (off : Offset) (v : Word),
    (off.toNat % 4 ≠ 0 →
      exec (.rd off) s = .fault (.busError .misaligned off (some 0#32))
      ∧ exec (.wr off v) s = .fault (.busError .misaligned off none)
      ∧ exec (.poll off v) s = .fault (.busError .misaligned off (some 0#32)))
    ∧ (off.toNat % 4 = 0 → ¬ offsetListed off →
      exec (.rd off) s = .fault (.busError .unmapped off (some 0#32))
      ∧ exec (.wr off v) s = .fault (.busError .unmapped off none)
      ∧ exec (.poll off v) s = .fault (.busError .unmapped off (some 0#32)))
    ∧ (offsetListed off → off = 0x000#12 ∨ off = 0x00C#12 ∨ 0x180 ≤ off.toNat →
      exec (.wr off v) s = .fault (.busError .readOnly off none))
    ∧ (offsetListed off → ∃ t, exec (.rd off) s = .next t ∧ t.pos = s.pos + 1)
    ∧ (offsetListed off → off ≠ 0x000#12 → off ≠ 0x00C#12 → off.toNat < 0x180 →
      ∃ t, exec (.wr off v) s = .next t ∧ t.pos = s.pos + 1)

/-- R100: one read of POLL is an RD; the host goes on when every bit of the mask is set in the word read and repeats
the record otherwise (one read is one step, log 15); with mask 0 it goes on after one read. -/
def Obligations.PollRepeatsUntilTheMaskIsSet : Prop :=
  ∀ (s : State) (off : Offset) (mask : Word), offsetListed off →
    ∃ t, exec (.rd off) s = .next t
      ∧ (t.rdata &&& mask = mask → exec (.poll off mask) s = .next t)
      ∧ (t.rdata &&& mask ≠ mask → exec (.poll off mask) s = .next { t with pos := s.pos })
      ∧ exec (.poll off 0#32) s = .next t

/-- R65, R100, R132: WAIT (POLL of STATUS with the DONE bit) completes when DONE = 1 and repeats when DONE = 0. Where
no command runs and DONE = 0, as after a rejection, it hangs: no number of host and engine turns moves the host on. -/
def Obligations.WaitCompletesOnDoneAndElseHangs : Prop :=
  (∀ s : State, s.done = true →
    ∃ v, exec (.poll 0x008#12 0x00000002#32) s = .next { s with rdata := v, pos := s.pos + 1 })
  ∧ (∀ s : State, s.done = false →
    ∃ v, exec (.poll 0x008#12 0x00000002#32) s = .next { s with rdata := v })
  ∧ ∀ (s : State) (ts : List Turn), s.done = false → s.running = none →
    s.program[s.pos]? = some 0x800800000002#48 → s.turns = ts → Turn.reset ∉ ts →
    ∃ t, Sys2Proof.core.run ts.length s = .next t ∧ t.pos = s.pos ∧ t.done = false

/-- R21, R28, R42, R99: WR to each word of each operand register completes, in every state: that word becomes the
data, the register's other words and every other register stay. -/
def Obligations.WrToOperandsStoresTheWord : Prop :=
  WrStores 0x040 16 (fun s => s.a) (fun x s => { s with a := x })
  ∧ WrStores 0x080 8 (fun s => s.m) (fun x s => { s with m := x })
  ∧ WrStores 0x0A0 8 (fun s => s.x1) (fun x s => { s with x1 := x })
  ∧ WrStores 0x0C0 8 (fun s => s.y1) (fun x s => { s with y1 := x })
  ∧ WrStores 0x0E0 8 (fun s => s.x2) (fun x s => { s with x2 := x })
  ∧ WrStores 0x100 8 (fun s => s.y2) (fun x s => { s with y2 := x })
  ∧ WrStores 0x120 8 (fun s => s.k) (fun x s => { s with k := x })
  ∧ WrStores 0x140 8 (fun s => s.seed) (fun x s => { s with seed := x })

/-- R44, R48: after a WR to an operand word, an RD of it returns the data, and an RD of any other mapped word but a
word of DCONST before READY returns what it returned before. -/
def Obligations.OperandWriteReadsBackAndTouchesNoOtherWord : Prop :=
  ∀ (s t : State) (off : Offset) (v : Word), operandOffset off → exec (.wr off v) s = .next t →
    (∃ u, exec (.rd off) t = .next u ∧ u.rdata = v)
    ∧ ∀ off', offsetListed off' → off' ≠ off → ¬ (dconstOffset off' ∧ s.ready = false) →
      ∃ u u', exec (.rd off') s = .next u ∧ exec (.rd off') t = .next u' ∧ u'.rdata = u.rdata

/-- R23, R24, R27, R99: WR to CTRL with SRST = 0, to STATUS and to SEED_CTRL completes in every state: VMODEL and IE
are bits 1 and 2; a 1 in bit 1 clears DONE and a 1 in bit 5 clears REJ and ERRCODE.REJ; VALID and FAIL are bits 0 and
1; all other bits are ignored and nothing else changes. -/
def Obligations.WrToControlRegistersSetsTheirFields : Prop :=
  ∀ (s : State) (v : Word),
    (v.getLsbD 0 = false →
      exec (.wr 0x004#12 v) s = .next { s with vmodel := v.getLsbD 1, ie := v.getLsbD 2, pos := s.pos + 1 })
    ∧ exec (.wr 0x008#12 v) s = .next { s with
        done := if v.getLsbD 1 then false else s.done
        rej := if v.getLsbD 5 then false else s.rej
        rejCode := if v.getLsbD 5 then 0#8 else s.rejCode
        pos := s.pos + 1 }
    ∧ exec (.wr 0x014#12 v) s
        = .next { s with seedValid := v.getLsbD 0, seedFail := v.getLsbD 1, pos := s.pos + 1 }

/-! ## Issuing, rejecting, the interrupt -/

/-- R34, R104: a CMD write of a command's word to a ready, unlocked, idle core is accepted: CMD holds the word, the
command runs on a copy of the operands, DONE is cleared, nothing else changes. -/
def Obligations.CmdWriteIsAccepted : Prop :=
  ∀ (s : State) (c : Command), s.acceptsCommand →
    exec (.wr 0x010#12 c.word) s = .next { s with
      cmd := c.word
      running := some ⟨c, ⟨s.a, s.m, s.x1, s.y1, s.x2, s.y2, s.k, s.seed, s.seedValid, s.seedFail, s.vmodel⟩⟩
      done := false
      pos := s.pos + 1 }

/-- R105, R106, R128, R129: any other CMD write is rejected, with the code of the first condition in the order
LOCKED, NOT_READY, BUSY, ILLEGAL_CMD; only REJ and ERRCODE.REJ change. -/
def Obligations.CmdWriteIsRejectedByPriority : Prop :=
  ∀ (s : State) (w : Word),
    (s.err = true →
      exec (.wr 0x010#12 w) s = .next { s with rej := true, rejCode := 0x04#8, pos := s.pos + 1 })
    ∧ (s.err = false → s.ready = false →
      exec (.wr 0x010#12 w) s = .next { s with rej := true, rejCode := 0x03#8, pos := s.pos + 1 })
    ∧ (s.err = false → s.ready = true → s.running ≠ none →
      exec (.wr 0x010#12 w) s = .next { s with rej := true, rejCode := 0x02#8, pos := s.pos + 1 })
    ∧ (s.acceptsCommand → (∀ c : Command, w ≠ c.word) →
      exec (.wr 0x010#12 w) s = .next { s with rej := true, rejCode := 0x01#8, pos := s.pos + 1 })

/-- R32, R116: irq is IE and (DONE or REJ), in every state; it is 0 at reset, IE after a completion, success or fatal,
and 0 after the write of STATUS that clears DONE and REJ, in a locked core too. -/
def Obligations.IrqFollowsDoneAndRej : Prop :=
  (∀ s : State, s.irq = true ↔ s.ie = true ∧ (s.done = true ∨ s.rej = true))
  ∧ State.reset.irq = false
  ∧ (∀ (c : Command) (s t : State), exec c.toInstr s = .next t → t.irq = s.ie)
  ∧ (∀ (s t : State), exec (.wr 0x008#12 0x00000022#32) s = .next t → t.irq = false)

/-! ## Invariants and whole-machine rules -/

/-- The invariant holds at reset (logs 1 to 6 for the values the model chose). -/
def Obligations.InvariantHoldsAtReset : Prop := State.reset.Inv

/-- R25, R26, R3, R33, R104, R125: every step keeps the invariant: codes match their bits, a running command belongs
to a ready, unlocked core that has cleared DONE, nothing has run before READY, RX and RY are field elements. -/
def Obligations.EveryStepKeepsTheInvariant : Prop :=
  ∀ s t : State, s.Inv → step s = .next t → t.Inv

/-- R31, R20: no step changes the parameters or the host program. -/
def Obligations.ParametersNeverChange : Prop :=
  ∀ s t : State, step s = .next t → SameParams s t ∧ t.program = s.program

/-- R109, R114: once locked, the core stays locked with the same fatal code through every step but a reset. -/
def Obligations.OnlyAResetLiftsTheLock : Prop :=
  ∀ s t : State, s.EngineInv → s.err = true → step s = .next t →
    s.takeTurn.1 ≠ .reset → ¬ (s.takeTurn.1 = .host ∧ s.hostSoftResets) →
    t.err = true ∧ t.fatalCode = s.fatalCode

/-- R30, R130: R, RX and RY change only in an engine turn of a ready core that runs a command, or in a reset. -/
def Obligations.ResultsChangeOnlyAtACompletion : Prop :=
  ∀ s t : State, step s = .next t → ¬ SameResults s t →
    (s.takeTurn.1 = .engine ∧ s.ready = true ∧ s.running ≠ none)
    ∨ s.takeTurn.1 = .reset ∨ (s.takeTurn.1 = .host ∧ s.hostSoftResets)

/-- R107, R136: every accepted command ends after finitely many steps, unless the host program faults, or a word of it
that is no record is refused, first: some number of steps leaves the engine idle, by completion or by a reset (the turns
are the model's, log 3). -/
def Obligations.EveryAcceptedCommandEnds : Prop :=
  ∀ (s : State) (r : Running), s.ready = true → s.running = some r →
    ∃ n, match Sys2Proof.core.run n s with
      | .next t => t.running = none
      | .fault _ => True
      | .refused _ => True

/-- R107, R136: the engine itself never stops the machine: in a ready core the running command's completion step
always answers a next state with the engine idle, whatever the operands. -/
def Obligations.TheEngineNeverFaults : Prop :=
  ∀ s : State, ∃ t, engineTurn s = .next t ∧ (s.ready = true → t.running = none)
end

