-- ==== Sys2Proof/Laws/Prime.lean ====
section
/-!
SUPPORT. Two facts about constants of the spec: P is prime (R2), and D is no square modulo P (R76, R79).
-/

namespace Sys2Proof.Laws

/-- a ^ e % m by repeated squaring, for exponents below 2 ^ fuel. -/
def powMod (m : Nat) : Nat → Nat → Nat → Nat
  | 0, _, _ => 1 % m
  | fuel + 1, a, e =>
    if e % 2 = 1 then a * powMod m fuel (a * a % m) (e / 2) % m else powMod m fuel (a * a % m) (e / 2)

theorem powMod_eq (m fuel a e : Nat) (h : e < 2 ^ fuel) : powMod m fuel a e = a ^ e % m := by
  induction fuel generalizing a e with
  | zero =>
    have : e = 0 := by simpa using h
    simp [powMod, this]
  | succ n ih =>
    have hlt : e / 2 < 2 ^ n := by rw [pow_succ] at h; omega
    have hsq : (a * a % m) ^ (e / 2) % m = a ^ (2 * (e / 2)) % m := by
      rw [pow_mul, pow_two, ← Nat.pow_mod]
    rw [powMod, ih _ _ hlt, hsq]
    split
    · rw [Nat.mul_mod_mod, ← pow_succ']
      congr 2; omega
    · congr 2; omega

/-- Primality from a primitive root and the factorisation of p - 1. -/
theorem prime_of_primitive_root (p a : Nat) (fs : List Nat) (hp : 1 < p ∧ p < 2 ^ 256)
    (hprod : fs.prod = p - 1) (hfs : ∀ q ∈ fs, q.Prime) (ha : powMod p 256 a (p - 1) = 1)
    (hq : ∀ q ∈ fs, powMod p 256 a ((p - 1) / q) ≠ 1) : p.Prime := by
  have cast_iff (n : Nat) (hn : n ≤ p - 1) : ((a : ZMod p) ^ n = 1) ↔ powMod p 256 a n = 1 := by
    rw [powMod_eq _ _ _ _ (by omega), ← Nat.cast_pow, ← Nat.cast_one, ZMod.natCast_eq_natCast_iff',
      Nat.mod_eq_of_lt hp.1]
  refine lucas_primality p (a : ZMod p) ((cast_iff _ le_rfl).2 ha) fun q hqp hdvd => ?_
  rw [← hprod] at hdvd
  obtain ⟨r, hr, hqr⟩ := (Prime.dvd_prod_iff hqp.prime).1 hdvd
  obtain rfl : q = r := (Nat.prime_dvd_prime_iff_eq hqp (hfs r hr)).1 hqr
  exact fun h => hq q hr ((cast_iff _ (Nat.div_le_self _ _)).1 h)

theorem prime_2773320623 : Nat.Prime 2773320623 := by
  refine prime_of_primitive_root _ 5 [2, 2437, 569003] (by decide) (by decide) ?_
    (by decide +kernel) (by decide +kernel)
  simp only [List.forall_mem_cons]
  norm_num

theorem prime_72106336199 : Nat.Prime 72106336199 := by
  refine prime_of_primitive_root _ 7 [2, 13, 2773320623] (by decide) (by decide) ?_
    (by decide +kernel) (by decide +kernel)
  simp only [List.forall_mem_cons]
  exact ⟨by norm_num, by norm_num, prime_2773320623, by simp⟩

theorem prime_1919519569386763 : Nat.Prime 1919519569386763 := by
  refine prime_of_primitive_root _ 2 [2, 3, 7, 19, 47, 47, 127, 8574133] (by decide) (by decide) ?_
    (by decide +kernel) (by decide +kernel)
  simp only [List.forall_mem_cons]
  norm_num

theorem prime_31757755568855353 : Nat.Prime 31757755568855353 := by
  refine prime_of_primitive_root _ 10 [2, 2, 2, 3, 31, 107, 223, 4153, 430751] (by decide) (by decide) ?_
    (by decide +kernel) (by decide +kernel)
  simp only [List.forall_mem_cons]
  norm_num

theorem prime_75445702479781427272750846543864801 : Nat.Prime 75445702479781427272750846543864801 := by
  refine prime_of_primitive_root _ 7
    [2, 2, 2, 2, 2, 3, 3, 5, 5, 75707, 72106336199, 1919519569386763] (by decide) (by decide) ?_
    (by decide +kernel) (by decide +kernel)
  simp only [List.forall_mem_cons]
  refine ⟨?_, ?_, ?_, ?_, ?_, ?_, ?_, ?_, ?_, ?_, prime_72106336199, prime_1919519569386763, by simp⟩ <;>
    norm_num

theorem prime_factor_of_fieldPrime :
    Nat.Prime 74058212732561358302231226437062788676166966415465897661863160754340907 := by
  refine prime_of_primitive_root _ 2
    [2, 3, 353, 57467, 132049, 1923133, 31757755568855353, 75445702479781427272750846543864801]
    (by decide) (by decide) ?_
    (by decide +kernel) (by decide +kernel)
  simp only [List.forall_mem_cons]
  refine ⟨?_, ?_, ?_, ?_, ?_, ?_, prime_31757755568855353, prime_75445702479781427272750846543864801, by simp⟩ <;>
    norm_num

/-- P is prime (R2). -/
theorem fieldPrime_prime : Nat.Prime Machine.fieldPrime := by
  refine prime_of_primitive_root _ 2
    [2, 2, 3, 65147, 74058212732561358302231226437062788676166966415465897661863160754340907]
    (by decide) (by decide) ?_
    (by decide +kernel) (by decide +kernel)
  simp only [List.forall_mem_cons]
  exact ⟨by norm_num, by norm_num, by norm_num, by norm_num, prime_factor_of_fieldPrime, by simp⟩

/-- D is no square modulo P: its Jacobi symbol is -1 (R76). -/
theorem curveD_not_square : ¬ IsSquare ((Machine.curveD : Int) : ZMod Machine.fieldPrime) := by
  apply ZMod.nonsquare_of_jacobiSym_eq_neg_one
  norm_num [Machine.curveD, Machine.fieldPrime]

end Sys2Proof.Laws
end

