-- ==== Sys2Proof/Laws/Arith.lean ====
section
/-!
SUPPORT. One specification lemma per arithmetic function: what the Euclidean loop, the modular inverse and the
point addition answer, in terms of equations modulo P. The proofs about commands cite these.
-/

namespace Sys2Proof.Machine

/-- The loop of R69 ends with the gcd and a Bezout coefficient of `a`, when the bound exceeds `r`. -/
theorem euclidLoop_spec (m a : Int) (fuel oldR r : Nat) (oldS s : Int) (hf : r < fuel)
    (h1 : m ∣ oldS * a - oldR) (h2 : m ∣ s * a - r) :
    (euclidLoop fuel oldR r oldS s).1 = Nat.gcd oldR r ∧
      m ∣ (euclidLoop fuel oldR r oldS s).2 * a - (euclidLoop fuel oldR r oldS s).1 := by
  induction fuel generalizing oldR r oldS s with
  | zero => omega
  | succ n ih =>
    unfold euclidLoop
    split
    · rename_i hr
      subst hr
      simpa using h1
    · rename_i hr
      have hcast : ((oldR % r : Nat) : Int) = oldR - (oldR / r : Nat) * r := by
        have := Int.emod_add_mul_ediv (oldR : Int) r
        push_cast
        linarith
      have hlt : oldR % r < r := Nat.mod_lt _ (by omega)
      have hdvd : m ∣ (oldS - (oldR / r : Nat) * s) * a - (oldR % r : Nat) := by
        rw [hcast]
        have := Int.dvd_sub h1 (Dvd.dvd.mul_left h2 ((oldR / r : Nat) : Int))
        convert this using 1
        ring
      have := ih r (oldR % r) s _ (by omega) h2 hdvd
      refine ⟨?_, this.2⟩
      rw [this.1, Nat.gcd_comm oldR r, Nat.gcd_rec r oldR, Nat.gcd_comm]

/-- The loop of R69 as the inverse starts it: `a mod m` is congruent to `a`. -/
theorem modInverse_loop_spec (a m : Nat) :
    (euclidLoop (m + 1) (a % m) m 1 0).1 = Nat.gcd a m ∧
      (m : Int) ∣ (euclidLoop (m + 1) (a % m) m 1 0).2 * a - (Nat.gcd a m : Nat) := by
  have h := euclidLoop_spec m a (m + 1) (a % m) m 1 0 (by omega)
    ⟨(a : Int) / m, by have := Int.emod_add_mul_ediv (a : Int) m; push_cast; linarith⟩ (by simp)
  have hg : Nat.gcd (a % m) m = Nat.gcd a m := by rw [← Nat.gcd_rec, Nat.gcd_comm]
  rw [hg] at h
  exact ⟨h.1, h.1 ▸ h.2⟩

/-- A coprime operand has its inverse in [0, m) (R69). -/
theorem modInverse_coprime {a m : Nat} (hm : m ≠ 0) (hg : Nat.gcd a m = 1) :
    ∃ x, modInverse a m = .ok x ∧ x < m ∧ (a * x) % m = 1 % m := by
  by_cases h1 : m = 1
  · subst h1
    exact ⟨0, by simp [modInverse], by omega, by simp⟩
  have hspec := modInverse_loop_spec a m
  rw [hg] at hspec
  have hpos : (0 : Int) < m := by omega
  refine ⟨_, by rw [modInverse, if_neg hm, if_neg h1, if_neg (by simp [hspec.1])], ?_, ?_⟩
  · have := Int.emod_lt_of_pos (euclidLoop (m + 1) (a % m) m 1 0).2 hpos
    have := Int.emod_nonneg (euclidLoop (m + 1) (a % m) m 1 0).2 (by omega : (m : Int) ≠ 0)
    omega
  · have hnn := Int.emod_nonneg (euclidLoop (m + 1) (a % m) m 1 0).2 (by omega : (m : Int) ≠ 0)
    have h : ((a : Int) * (euclidLoop (m + 1) (a % m) m 1 0).2) % m = 1 % m :=
      Int.ModEq.symm (Int.modEq_iff_dvd.2 (by simpa [mul_comm] using hspec.2))
    zify
    rw [Int.toNat_of_nonneg hnn, ← h]
    simp [Int.mul_emod]

/-- For m = 0 there is no inverse (D20). -/
theorem modInverse_zero (a : Nat) : modInverse a 0 = .error .badModulus := by simp [modInverse]

/-- For m >= 2 and a gcd other than 1 the inverse fails (R69). -/
theorem modInverse_not_coprime {a m : Nat} (hm : 2 ≤ m) (hg : Nat.gcd a m ≠ 1) :
    modInverse a m = .error .nonInvertible := by
  have hspec := modInverse_loop_spec a m
  rw [modInverse, if_neg (by omega), if_neg (by omega), if_pos (by rw [hspec.1]; exact hg)]

/-! ### Modulo P -/

theorem invP_zero : invP 0 = .error .nonInvertible :=
  modInverse_not_coprime (by decide) (by rw [Nat.gcd_zero_left]; decide)

/-- A reduced value other than 0 has its inverse modulo P (R69). -/
theorem invP_of_lt {a : Nat} (h0 : a ≠ 0) (hlt : a < fieldPrime) :
    ∃ x, invP a = .ok x ∧ x < fieldPrime ∧ (a * x) % fieldPrime = 1 := by
  have hg : Nat.gcd a fieldPrime = 1 :=
    Nat.Coprime.symm ((Nat.Prime.coprime_iff_not_dvd Laws.fieldPrime_prime).2 fun hd =>
      absurd (Nat.le_of_dvd (by omega) hd) (by omega))
  obtain ⟨x, hx, hlt, hmul⟩ := modInverse_coprime (by decide) hg
  exact ⟨x, hx, hlt, hmul⟩

theorem fieldPrime_pos : (0 : Int) < fieldPrime := by decide

theorem reduce_cast (a : Int) : (reduce a : Int) = a % fieldPrime :=
  Int.toNat_of_nonneg (Int.emod_nonneg _ (by decide))

theorem reduce_lt (a : Int) : reduce a < fieldPrime := by
  have := Int.emod_lt_of_pos a fieldPrime_pos
  have := reduce_cast a
  omega

/-! ### Point addition -/

theorem addT_cast (p q : Point) : (addT p q : Int) = productT p q % fieldPrime := by
  simp [addT, productT]

theorem addDenX_cast (p q : Point) : (addDenX p q : Int) = (1 + productT p q) % fieldPrime := by
  rw [addDenX, Int.natCast_mod, Nat.cast_add, addT_cast, Nat.cast_one, Int.add_emod_emod]

theorem addDenY_cast (p q : Point) : (addDenY p q : Int) = (1 - productT p q) % fieldPrime := by
  rw [addDenY, reduce_cast, addT_cast, Int.sub_emod_emod]

/-- The product of a numerator and an inverse solves the addition law. -/
theorem mul_inverse_emod {n d x : Nat} {D : Int} (hd : (d : Int) = D % fieldPrime)
    (hx : (d * x) % fieldPrime = 1) : (((n * x % fieldPrime : Nat) : Int) * D) % fieldPrime = n % fieldPrime := by
  have hD : (d : Int) ≡ D [ZMOD fieldPrime] := by rw [hd]; exact Int.mod_modEq D _
  have h1 : (d : Int) * x ≡ 1 [ZMOD fieldPrime] := by
    have : ((d * x : Nat) : Int) % fieldPrime = 1 % fieldPrime := by exact_mod_cast hx
    exact_mod_cast this
  calc (((n * x % fieldPrime : Nat) : Int) * D) ≡ (n * x : Nat) * D [ZMOD fieldPrime] := by
        rw [Int.natCast_mod]; exact (Int.mod_modEq _ _).mul_right D
    _ = n * (D * x) := by push_cast; ring
    _ ≡ n * (d * x) [ZMOD fieldPrime] := (hD.symm.mul_right _).mul_left _
    _ ≡ n * 1 [ZMOD fieldPrime] := h1.mul_left _
    _ = n := mul_one _

/-- With no zero denominator PointAdd answers the sum of R73. -/
theorem pointAdd_ok {p q : Point} (h : ¬ denominatorZero p q) :
    ∃ r, pointAdd p q = .ok r ∧ IsPointSum p q r := by
  have hX := addDenX_cast p q
  have hY := addDenY_cast p q
  have hXlt : addDenX p q < fieldPrime := Nat.mod_lt _ (by decide)
  have hYlt : addDenY p q < fieldPrime := reduce_lt _
  obtain ⟨ix, hix, -, hmx⟩ := invP_of_lt (fun h0 => h (.inl (by rw [← hX, h0]; rfl))) hXlt
  obtain ⟨iy, hiy, -, hmy⟩ := invP_of_lt (fun h0 => h (.inr (by rw [← hY, h0]; rfl))) hYlt
  refine ⟨⟨addNumX p q * ix % fieldPrime, addNumY p q * iy % fieldPrime⟩, by simp only [pointAdd, hix, hiy],
    Nat.mod_lt _ (by decide), Nat.mod_lt _ (by decide), ?_, ?_⟩
  · rw [mul_inverse_emod hX hmx, addNumX]; simp
  · rw [mul_inverse_emod hY hmy, addNumY]; simp

/-- With a zero denominator PointAdd fails (R76). -/
theorem pointAdd_error {p q : Point} (h : denominatorZero p q) : pointAdd p q = .error .nonInvertible := by
  have hX := addDenX_cast p q
  have hY := addDenY_cast p q
  have hXlt : addDenX p q < fieldPrime := Nat.mod_lt _ (by decide)
  by_cases h0 : addDenX p q = 0
  · rw [pointAdd, h0, invP_zero]
  · obtain ⟨ix, hix, -, -⟩ := invP_of_lt h0 hXlt
    have hy0 : addDenY p q = 0 := by
      rcases h with h | h
      · rw [h] at hX; exact absurd (by exact_mod_cast hX) h0
      · rw [h] at hY; exact_mod_cast hY
    simp only [pointAdd, hix, hy0, invP_zero]

/-- PointAdd fails with NONINVERTIBLE only (R72). -/
theorem pointAdd_error_code {p q : Point} {e : FatalCode} (h : pointAdd p q = .error e) : e = .nonInvertible := by
  by_cases hz : denominatorZero p q
  · rw [pointAdd_error hz] at h; injection h with h; exact h.symm
  · obtain ⟨r, hr, -⟩ := pointAdd_ok hz; rw [hr] at h; cases h

end Sys2Proof.Machine
end

