-- ==== Sys2Proof/Laws/Assembler.lean ====
section
/-!
SUPPORT. What the assembler's helpers answer: the offset of a word, and the transactions of the first words of a
register (R62, R64).
-/

namespace Sys2Proof.Machine

/-- Each register has one row in the map. -/
theorem mapRow_mapped : ∀ row ∈ registerMap, mapRow row.reg registerMap = some row := by decide +kernel

/-- Word j of a register is at base + 4j, for the words it has and no other (R62). -/
theorem wordOffset_mapped {row : MapRow} (h : row ∈ registerMap) (j : Nat) :
    wordOffset row.reg j = if j < row.words then some (wordAt row.base j) else none := by
  simp only [wordOffset, mapRow_mapped row h, wordAt]

/-- The writes of the first k words that a register has, in rising order (R64). -/
theorem writeWords_mapped {row : MapRow} (h : row ∈ registerMap) {n : Nat} (v : BitVec n) {k : Nat}
    (hk : k ≤ row.words) : writeWords row.reg v k
      = some ((List.range k).map fun i => .wr (wordAt row.base i) (wideWord v i)) := by
  induction k with
  | zero => rfl
  | succ k ih => simp [writeWords, ih (by omega), wordOffset_mapped h, show k < row.words by omega, List.range_succ]

/-- The reads of the first k words that a register has, in rising order (R64). -/
theorem readWords_mapped {row : MapRow} (h : row ∈ registerMap) {k : Nat} (hk : k ≤ row.words) :
    readWords row.reg k = some ((List.range k).map fun i => .rd (wordAt row.base i)) := by
  induction k with
  | zero => rfl
  | succ k ih => simp [readWords, ih (by omega), wordOffset_mapped h, show k < row.words by omega, List.range_succ]

end Sys2Proof.Machine
end

