-- ==== Sys2Proof/Laws/Curve.lean ====
section
/-!
SUPPORT. The addition law of R73 over any field: on the twisted Edwards curve with a parameter D that is no square
no denominator vanishes, and the sum lies on the curve (R76). The statements about points modulo P follow from
these and from `fieldPrime_prime` and `curveD_not_square`.
-/

namespace Sys2Proof.Laws

variable {F : Type} [Field F]

/-- A quotient of squares is a square. -/
theorem isSquare_of_mul_sq {d w n : F} (hw : w ≠ 0) (h : d * w ^ 2 = n ^ 2) : IsSquare d := by
  refine ⟨n / w, ?_⟩
  rw [div_mul_div_comm, eq_div_iff (mul_ne_zero hw hw)]
  linear_combination h

/-- A square root of -1 turns a vanishing denominator into a square root of D, or of -D, which is then D's. -/
theorem edwards_product_sq_ne_one {d i x1 y1 x2 y2 : F} (h2 : (2 : F) ≠ 0) (hi : i ^ 2 = -1) (hd : ¬ IsSquare d)
    (h1 : -x1 ^ 2 + y1 ^ 2 = 1 + d * x1 ^ 2 * y1 ^ 2) (h3 : -x2 ^ 2 + y2 ^ 2 = 1 + d * x2 ^ 2 * y2 ^ 2) :
    (d * x1 * x2 * y1 * y2) ^ 2 ≠ 1 := by
  intro he
  have hne : d * x1 * x2 * y1 * y2 ≠ 0 := by
    intro h0
    rw [h0] at he
    simp at he
  have hx1 : x1 ≠ 0 := by rintro rfl; simp at hne
  have hy1 : y1 ≠ 0 := by rintro rfl; simp at hne
  have hx2 : x2 ≠ 0 := by rintro rfl; simp at hne
  have hi0 : i ≠ 0 := by rintro rfl; simp at hi
  -- for each sign, the square of a sum is D times the square of another
  have key (z : F) (hz : z = y2 ∨ z = -y2) (hs : i * x2 + z ≠ 0) : IsSquare d := by
    have hz2 : z ^ 2 = y2 ^ 2 := by rcases hz with rfl | rfl <;> ring
    have hw : x1 * y1 * (i * x2 + z) ≠ 0 := mul_ne_zero (mul_ne_zero hx1 hy1) hs
    have he' : (d * x1 * x2 * y1 * z) ^ 2 = 1 := by rw [mul_pow, hz2, ← mul_pow, he]
    have h3' : -x2 ^ 2 + z ^ 2 = 1 + d * x2 ^ 2 * z ^ 2 := by rw [hz2, h3]
    refine isSquare_of_mul_sq hw (n := i * x1 + d * x1 * x2 * y1 * z * y1) ?_
    linear_combination -(x1 ^ 2 - d * x1 ^ 2 * y1 ^ 2 * x2 ^ 2) * hi - (y1 ^ 2 - 1) * he' - h1
      + d * x1 ^ 2 * y1 ^ 2 * h3'
  by_cases hp : i * x2 + y2 = 0
  · by_cases hm : i * x2 + -y2 = 0
    · have : 2 * (i * x2) = 0 := by linear_combination hp + hm
      exact mul_ne_zero h2 (mul_ne_zero hi0 hx2) this
    · exact hd (key _ (.inr rfl) hm)
  · exact hd (key _ (.inl rfl) hp)

/-- The law's numerators and denominators satisfy the curve equation with the denominators cleared. -/
theorem edwards_sum_equation {d x1 y1 x2 y2 : F} (h1 : -x1 ^ 2 + y1 ^ 2 = 1 + d * x1 ^ 2 * y1 ^ 2)
    (h2 : -x2 ^ 2 + y2 ^ 2 = 1 + d * x2 ^ 2 * y2 ^ 2) :
    -(x1 * y2 + x2 * y1) ^ 2 * (1 - d * x1 * x2 * y1 * y2) ^ 2
        + (y1 * y2 + x1 * x2) ^ 2 * (1 + d * x1 * x2 * y1 * y2) ^ 2
      = (1 + d * x1 * x2 * y1 * y2) ^ 2 * (1 - d * x1 * x2 * y1 * y2) ^ 2
        + d * (x1 * y2 + x2 * y1) ^ 2 * (y1 * y2 + x1 * x2) ^ 2 := by
  grind

/-- A double never has a vanishing denominator, on the curve or off it (R79). -/
theorem edwards_double_ne {d i x y : F} (hi : i ^ 2 = -1) (hd : ¬ IsSquare d) :
    1 + d * x * x * y * y ≠ 0 ∧ 1 - d * x * x * y * y ≠ 0 := by
  constructor <;> intro h
  · have hne : x * y ≠ 0 := by rintro h0; apply one_ne_zero (α := F); linear_combination h - d * x * y * h0
    exact hd (isSquare_of_mul_sq hne (n := i) (by linear_combination h - hi))
  · have hne : x * y ≠ 0 := by rintro h0; apply one_ne_zero (α := F); linear_combination h + d * x * y * h0
    exact hd (isSquare_of_mul_sq hne (n := 1) (by linear_combination -h))

end Sys2Proof.Laws

namespace Sys2Proof.Machine

/-! ### From integers modulo P to the field -/

theorem emod_fieldPrime_eq_zero_iff (a : Int) : a % fieldPrime = 0 ↔ (a : ZMod fieldPrime) = 0 := by
  rw [ZMod.intCast_zmod_eq_zero_iff_dvd, Int.dvd_iff_emod_eq_zero]

/-- The twisted Edwards equation of R90 in the field. -/
theorem satisfiesCurve_edwards_iff (p : Point) :
    SatisfiesCurve p true ↔ -(p.x : ZMod fieldPrime) ^ 2 + (p.y : ZMod fieldPrime) ^ 2
      = 1 + ((curveD : Int) : ZMod fieldPrime) * (p.x : ZMod fieldPrime) ^ 2 * (p.y : ZMod fieldPrime) ^ 2 := by
  simp only [SatisfiesCurve, if_true]
  rw [← ZMod.intCast_eq_intCast_iff']
  push_cast
  constructor <;> intro h <;> linear_combination h

/-- -1 is a square modulo P (R79). -/
theorem exists_sq_eq_neg_one : ∃ i : ZMod fieldPrime, i ^ 2 = -1 := by
  have := Fact.mk Laws.fieldPrime_prime
  obtain ⟨i, hi⟩ := (ZMod.exists_sq_eq_neg_one_iff (p := fieldPrime)).2 (by decide)
  exact ⟨i, by rw [hi, pow_two]⟩

end Sys2Proof.Machine
end

