-- ==== Sys2Proof/Laws/State.lean ====
section
/-!
SUPPORT. What each shared operation leaves in each field of the state, and what a snapshot holds. All true by
unfolding, so that no later proof unfolds a record update.
-/

namespace Sys2Proof.Machine

/-! ### finish -/

@[simp] theorem State.finish_vmodel (s : State) : s.finish.vmodel = s.vmodel := rfl
@[simp] theorem State.finish_ie (s : State) : s.finish.ie = s.ie := rfl
@[simp] theorem State.finish_done (s : State) : s.finish.done = true := rfl
@[simp] theorem State.finish_err (s : State) : s.finish.err = s.err := rfl
@[simp] theorem State.finish_ready (s : State) : s.finish.ready = s.ready := rfl
@[simp] theorem State.finish_onCurve (s : State) : s.finish.onCurve = s.onCurve := rfl
@[simp] theorem State.finish_rej (s : State) : s.finish.rej = s.rej := rfl
@[simp] theorem State.finish_fatalCode (s : State) : s.finish.fatalCode = s.fatalCode := rfl
@[simp] theorem State.finish_rejCode (s : State) : s.finish.rejCode = s.rejCode := rfl
@[simp] theorem State.finish_cmd (s : State) : s.finish.cmd = s.cmd := rfl
@[simp] theorem State.finish_seedValid (s : State) : s.finish.seedValid = s.seedValid := rfl
@[simp] theorem State.finish_seedFail (s : State) : s.finish.seedFail = s.seedFail := rfl
@[simp] theorem State.finish_a (s : State) : s.finish.a = s.a := rfl
@[simp] theorem State.finish_m (s : State) : s.finish.m = s.m := rfl
@[simp] theorem State.finish_x1 (s : State) : s.finish.x1 = s.x1 := rfl
@[simp] theorem State.finish_y1 (s : State) : s.finish.y1 = s.y1 := rfl
@[simp] theorem State.finish_x2 (s : State) : s.finish.x2 = s.x2 := rfl
@[simp] theorem State.finish_y2 (s : State) : s.finish.y2 = s.y2 := rfl
@[simp] theorem State.finish_k (s : State) : s.finish.k = s.k := rfl
@[simp] theorem State.finish_seed (s : State) : s.finish.seed = s.seed := rfl
@[simp] theorem State.finish_r (s : State) : s.finish.r = s.r := rfl
@[simp] theorem State.finish_rx (s : State) : s.finish.rx = s.rx := rfl
@[simp] theorem State.finish_ry (s : State) : s.finish.ry = s.ry := rfl
@[simp] theorem State.finish_gx (s : State) : s.finish.gx = s.gx := rfl
@[simp] theorem State.finish_gy (s : State) : s.finish.gy = s.gy := rfl
@[simp] theorem State.finish_running (s : State) : s.finish.running = none := rfl
@[simp] theorem State.finish_initLeft (s : State) : s.finish.initLeft = s.initLeft := rfl
@[simp] theorem State.finish_initCycles (s : State) : s.finish.initCycles = s.initCycles := rfl
@[simp] theorem State.finish_program (s : State) : s.finish.program = s.program := rfl
@[simp] theorem State.finish_pos (s : State) : s.finish.pos = s.pos := rfl
@[simp] theorem State.finish_rdata (s : State) : s.finish.rdata = s.rdata := rfl
@[simp] theorem State.finish_turns (s : State) : s.finish.turns = s.turns := rfl
@[simp] theorem State.finish_tick (s : State) : s.finish.tick = s.tick := rfl

/-! ### fatal -/

@[simp] theorem State.fatal_vmodel (c : FatalCode) (s : State) : (s.fatal c).vmodel = s.vmodel := rfl
@[simp] theorem State.fatal_ie (c : FatalCode) (s : State) : (s.fatal c).ie = s.ie := rfl
@[simp] theorem State.fatal_done (c : FatalCode) (s : State) : (s.fatal c).done = true := rfl
@[simp] theorem State.fatal_err (c : FatalCode) (s : State) : (s.fatal c).err = true := rfl
@[simp] theorem State.fatal_ready (c : FatalCode) (s : State) : (s.fatal c).ready = s.ready := rfl
@[simp] theorem State.fatal_onCurve (c : FatalCode) (s : State) : (s.fatal c).onCurve = s.onCurve := rfl
@[simp] theorem State.fatal_rej (c : FatalCode) (s : State) : (s.fatal c).rej = s.rej := rfl
@[simp] theorem State.fatal_fatalCode (c : FatalCode) (s : State) : (s.fatal c).fatalCode = c.code := rfl
@[simp] theorem State.fatal_rejCode (c : FatalCode) (s : State) : (s.fatal c).rejCode = s.rejCode := rfl
@[simp] theorem State.fatal_cmd (c : FatalCode) (s : State) : (s.fatal c).cmd = s.cmd := rfl
@[simp] theorem State.fatal_seedValid (c : FatalCode) (s : State) : (s.fatal c).seedValid = s.seedValid := rfl
@[simp] theorem State.fatal_seedFail (c : FatalCode) (s : State) : (s.fatal c).seedFail = s.seedFail := rfl
@[simp] theorem State.fatal_a (c : FatalCode) (s : State) : (s.fatal c).a = s.a := rfl
@[simp] theorem State.fatal_m (c : FatalCode) (s : State) : (s.fatal c).m = s.m := rfl
@[simp] theorem State.fatal_x1 (c : FatalCode) (s : State) : (s.fatal c).x1 = s.x1 := rfl
@[simp] theorem State.fatal_y1 (c : FatalCode) (s : State) : (s.fatal c).y1 = s.y1 := rfl
@[simp] theorem State.fatal_x2 (c : FatalCode) (s : State) : (s.fatal c).x2 = s.x2 := rfl
@[simp] theorem State.fatal_y2 (c : FatalCode) (s : State) : (s.fatal c).y2 = s.y2 := rfl
@[simp] theorem State.fatal_k (c : FatalCode) (s : State) : (s.fatal c).k = s.k := rfl
@[simp] theorem State.fatal_seed (c : FatalCode) (s : State) : (s.fatal c).seed = s.seed := rfl
@[simp] theorem State.fatal_r (c : FatalCode) (s : State) : (s.fatal c).r = s.r := rfl
@[simp] theorem State.fatal_rx (c : FatalCode) (s : State) : (s.fatal c).rx = s.rx := rfl
@[simp] theorem State.fatal_ry (c : FatalCode) (s : State) : (s.fatal c).ry = s.ry := rfl
@[simp] theorem State.fatal_gx (c : FatalCode) (s : State) : (s.fatal c).gx = s.gx := rfl
@[simp] theorem State.fatal_gy (c : FatalCode) (s : State) : (s.fatal c).gy = s.gy := rfl
@[simp] theorem State.fatal_running (c : FatalCode) (s : State) : (s.fatal c).running = none := rfl
@[simp] theorem State.fatal_initLeft (c : FatalCode) (s : State) : (s.fatal c).initLeft = s.initLeft := rfl
@[simp] theorem State.fatal_initCycles (c : FatalCode) (s : State) : (s.fatal c).initCycles = s.initCycles := rfl
@[simp] theorem State.fatal_program (c : FatalCode) (s : State) : (s.fatal c).program = s.program := rfl
@[simp] theorem State.fatal_pos (c : FatalCode) (s : State) : (s.fatal c).pos = s.pos := rfl
@[simp] theorem State.fatal_rdata (c : FatalCode) (s : State) : (s.fatal c).rdata = s.rdata := rfl
@[simp] theorem State.fatal_turns (c : FatalCode) (s : State) : (s.fatal c).turns = s.turns := rfl
@[simp] theorem State.fatal_tick (c : FatalCode) (s : State) : (s.fatal c).tick = s.tick := rfl

/-! ### reject -/

@[simp] theorem State.reject_vmodel (c : RejectCode) (s : State) : (s.reject c).vmodel = s.vmodel := rfl
@[simp] theorem State.reject_ie (c : RejectCode) (s : State) : (s.reject c).ie = s.ie := rfl
@[simp] theorem State.reject_done (c : RejectCode) (s : State) : (s.reject c).done = s.done := rfl
@[simp] theorem State.reject_err (c : RejectCode) (s : State) : (s.reject c).err = s.err := rfl
@[simp] theorem State.reject_ready (c : RejectCode) (s : State) : (s.reject c).ready = s.ready := rfl
@[simp] theorem State.reject_onCurve (c : RejectCode) (s : State) : (s.reject c).onCurve = s.onCurve := rfl
@[simp] theorem State.reject_rej (c : RejectCode) (s : State) : (s.reject c).rej = true := rfl
@[simp] theorem State.reject_fatalCode (c : RejectCode) (s : State) : (s.reject c).fatalCode = s.fatalCode := rfl
@[simp] theorem State.reject_rejCode (c : RejectCode) (s : State) : (s.reject c).rejCode = c.code := rfl
@[simp] theorem State.reject_cmd (c : RejectCode) (s : State) : (s.reject c).cmd = s.cmd := rfl
@[simp] theorem State.reject_seedValid (c : RejectCode) (s : State) : (s.reject c).seedValid = s.seedValid := rfl
@[simp] theorem State.reject_seedFail (c : RejectCode) (s : State) : (s.reject c).seedFail = s.seedFail := rfl
@[simp] theorem State.reject_a (c : RejectCode) (s : State) : (s.reject c).a = s.a := rfl
@[simp] theorem State.reject_m (c : RejectCode) (s : State) : (s.reject c).m = s.m := rfl
@[simp] theorem State.reject_x1 (c : RejectCode) (s : State) : (s.reject c).x1 = s.x1 := rfl
@[simp] theorem State.reject_y1 (c : RejectCode) (s : State) : (s.reject c).y1 = s.y1 := rfl
@[simp] theorem State.reject_x2 (c : RejectCode) (s : State) : (s.reject c).x2 = s.x2 := rfl
@[simp] theorem State.reject_y2 (c : RejectCode) (s : State) : (s.reject c).y2 = s.y2 := rfl
@[simp] theorem State.reject_k (c : RejectCode) (s : State) : (s.reject c).k = s.k := rfl
@[simp] theorem State.reject_seed (c : RejectCode) (s : State) : (s.reject c).seed = s.seed := rfl
@[simp] theorem State.reject_r (c : RejectCode) (s : State) : (s.reject c).r = s.r := rfl
@[simp] theorem State.reject_rx (c : RejectCode) (s : State) : (s.reject c).rx = s.rx := rfl
@[simp] theorem State.reject_ry (c : RejectCode) (s : State) : (s.reject c).ry = s.ry := rfl
@[simp] theorem State.reject_gx (c : RejectCode) (s : State) : (s.reject c).gx = s.gx := rfl
@[simp] theorem State.reject_gy (c : RejectCode) (s : State) : (s.reject c).gy = s.gy := rfl
@[simp] theorem State.reject_running (c : RejectCode) (s : State) : (s.reject c).running = s.running := rfl
@[simp] theorem State.reject_initLeft (c : RejectCode) (s : State) : (s.reject c).initLeft = s.initLeft := rfl
@[simp] theorem State.reject_initCycles (c : RejectCode) (s : State) : (s.reject c).initCycles = s.initCycles := rfl
@[simp] theorem State.reject_program (c : RejectCode) (s : State) : (s.reject c).program = s.program := rfl
@[simp] theorem State.reject_pos (c : RejectCode) (s : State) : (s.reject c).pos = s.pos := rfl
@[simp] theorem State.reject_rdata (c : RejectCode) (s : State) : (s.reject c).rdata = s.rdata := rfl
@[simp] theorem State.reject_turns (c : RejectCode) (s : State) : (s.reject c).turns = s.turns := rfl
@[simp] theorem State.reject_tick (c : RejectCode) (s : State) : (s.reject c).tick = s.tick := rfl

/-! ### accept -/

@[simp] theorem State.accept_vmodel (c : Command) (w : Word) (s : State) : (s.accept c w).vmodel = s.vmodel := rfl
@[simp] theorem State.accept_ie (c : Command) (w : Word) (s : State) : (s.accept c w).ie = s.ie := rfl
@[simp] theorem State.accept_done (c : Command) (w : Word) (s : State) : (s.accept c w).done = false := rfl
@[simp] theorem State.accept_err (c : Command) (w : Word) (s : State) : (s.accept c w).err = s.err := rfl
@[simp] theorem State.accept_ready (c : Command) (w : Word) (s : State) : (s.accept c w).ready = s.ready := rfl
@[simp] theorem State.accept_onCurve (c : Command) (w : Word) (s : State) : (s.accept c w).onCurve = s.onCurve := rfl
@[simp] theorem State.accept_rej (c : Command) (w : Word) (s : State) : (s.accept c w).rej = s.rej := rfl
@[simp] theorem State.accept_fatalCode (c : Command) (w : Word) (s : State) : (s.accept c w).fatalCode = s.fatalCode := rfl
@[simp] theorem State.accept_rejCode (c : Command) (w : Word) (s : State) : (s.accept c w).rejCode = s.rejCode := rfl
@[simp] theorem State.accept_cmd (c : Command) (w : Word) (s : State) : (s.accept c w).cmd = w := rfl
@[simp] theorem State.accept_seedValid (c : Command) (w : Word) (s : State) : (s.accept c w).seedValid = s.seedValid := rfl
@[simp] theorem State.accept_seedFail (c : Command) (w : Word) (s : State) : (s.accept c w).seedFail = s.seedFail := rfl
@[simp] theorem State.accept_a (c : Command) (w : Word) (s : State) : (s.accept c w).a = s.a := rfl
@[simp] theorem State.accept_m (c : Command) (w : Word) (s : State) : (s.accept c w).m = s.m := rfl
@[simp] theorem State.accept_x1 (c : Command) (w : Word) (s : State) : (s.accept c w).x1 = s.x1 := rfl
@[simp] theorem State.accept_y1 (c : Command) (w : Word) (s : State) : (s.accept c w).y1 = s.y1 := rfl
@[simp] theorem State.accept_x2 (c : Command) (w : Word) (s : State) : (s.accept c w).x2 = s.x2 := rfl
@[simp] theorem State.accept_y2 (c : Command) (w : Word) (s : State) : (s.accept c w).y2 = s.y2 := rfl
@[simp] theorem State.accept_k (c : Command) (w : Word) (s : State) : (s.accept c w).k = s.k := rfl
@[simp] theorem State.accept_seed (c : Command) (w : Word) (s : State) : (s.accept c w).seed = s.seed := rfl
@[simp] theorem State.accept_r (c : Command) (w : Word) (s : State) : (s.accept c w).r = s.r := rfl
@[simp] theorem State.accept_rx (c : Command) (w : Word) (s : State) : (s.accept c w).rx = s.rx := rfl
@[simp] theorem State.accept_ry (c : Command) (w : Word) (s : State) : (s.accept c w).ry = s.ry := rfl
@[simp] theorem State.accept_gx (c : Command) (w : Word) (s : State) : (s.accept c w).gx = s.gx := rfl
@[simp] theorem State.accept_gy (c : Command) (w : Word) (s : State) : (s.accept c w).gy = s.gy := rfl
@[simp] theorem State.accept_running (c : Command) (w : Word) (s : State) : (s.accept c w).running = some ⟨c, s.capture⟩ := rfl
@[simp] theorem State.accept_initLeft (c : Command) (w : Word) (s : State) : (s.accept c w).initLeft = s.initLeft := rfl
@[simp] theorem State.accept_initCycles (c : Command) (w : Word) (s : State) : (s.accept c w).initCycles = s.initCycles := rfl
@[simp] theorem State.accept_program (c : Command) (w : Word) (s : State) : (s.accept c w).program = s.program := rfl
@[simp] theorem State.accept_pos (c : Command) (w : Word) (s : State) : (s.accept c w).pos = s.pos := rfl
@[simp] theorem State.accept_rdata (c : Command) (w : Word) (s : State) : (s.accept c w).rdata = s.rdata := rfl
@[simp] theorem State.accept_turns (c : Command) (w : Word) (s : State) : (s.accept c w).turns = s.turns := rfl
@[simp] theorem State.accept_tick (c : Command) (w : Word) (s : State) : (s.accept c w).tick = s.tick := rfl

/-! ### initStep -/

@[simp] theorem State.initStep_vmodel (s : State) : s.initStep.vmodel = s.vmodel := rfl
@[simp] theorem State.initStep_ie (s : State) : s.initStep.ie = s.ie := rfl
@[simp] theorem State.initStep_done (s : State) : s.initStep.done = s.done := rfl
@[simp] theorem State.initStep_err (s : State) : s.initStep.err = s.err := rfl
@[simp] theorem State.initStep_ready (s : State) : s.initStep.ready = decide (s.initLeft ≤ 1) := rfl
@[simp] theorem State.initStep_onCurve (s : State) : s.initStep.onCurve = s.onCurve := rfl
@[simp] theorem State.initStep_rej (s : State) : s.initStep.rej = s.rej := rfl
@[simp] theorem State.initStep_fatalCode (s : State) : s.initStep.fatalCode = s.fatalCode := rfl
@[simp] theorem State.initStep_rejCode (s : State) : s.initStep.rejCode = s.rejCode := rfl
@[simp] theorem State.initStep_cmd (s : State) : s.initStep.cmd = s.cmd := rfl
@[simp] theorem State.initStep_seedValid (s : State) : s.initStep.seedValid = s.seedValid := rfl
@[simp] theorem State.initStep_seedFail (s : State) : s.initStep.seedFail = s.seedFail := rfl
@[simp] theorem State.initStep_a (s : State) : s.initStep.a = s.a := rfl
@[simp] theorem State.initStep_m (s : State) : s.initStep.m = s.m := rfl
@[simp] theorem State.initStep_x1 (s : State) : s.initStep.x1 = s.x1 := rfl
@[simp] theorem State.initStep_y1 (s : State) : s.initStep.y1 = s.y1 := rfl
@[simp] theorem State.initStep_x2 (s : State) : s.initStep.x2 = s.x2 := rfl
@[simp] theorem State.initStep_y2 (s : State) : s.initStep.y2 = s.y2 := rfl
@[simp] theorem State.initStep_k (s : State) : s.initStep.k = s.k := rfl
@[simp] theorem State.initStep_seed (s : State) : s.initStep.seed = s.seed := rfl
@[simp] theorem State.initStep_r (s : State) : s.initStep.r = s.r := rfl
@[simp] theorem State.initStep_rx (s : State) : s.initStep.rx = s.rx := rfl
@[simp] theorem State.initStep_ry (s : State) : s.initStep.ry = s.ry := rfl
@[simp] theorem State.initStep_gx (s : State) : s.initStep.gx = s.gx := rfl
@[simp] theorem State.initStep_gy (s : State) : s.initStep.gy = s.gy := rfl
@[simp] theorem State.initStep_running (s : State) : s.initStep.running = s.running := rfl
@[simp] theorem State.initStep_initLeft (s : State) : s.initStep.initLeft = s.initLeft - 1 := rfl
@[simp] theorem State.initStep_initCycles (s : State) : s.initStep.initCycles = s.initCycles := rfl
@[simp] theorem State.initStep_program (s : State) : s.initStep.program = s.program := rfl
@[simp] theorem State.initStep_pos (s : State) : s.initStep.pos = s.pos := rfl
@[simp] theorem State.initStep_rdata (s : State) : s.initStep.rdata = s.rdata := rfl
@[simp] theorem State.initStep_turns (s : State) : s.initStep.turns = s.turns := rfl
@[simp] theorem State.initStep_tick (s : State) : s.initStep.tick = s.tick := rfl

/-! ### coreReset -/

@[simp] theorem State.coreReset_vmodel (s : State) : s.coreReset.vmodel = true := rfl
@[simp] theorem State.coreReset_ie (s : State) : s.coreReset.ie = false := rfl
@[simp] theorem State.coreReset_done (s : State) : s.coreReset.done = false := rfl
@[simp] theorem State.coreReset_err (s : State) : s.coreReset.err = false := rfl
@[simp] theorem State.coreReset_ready (s : State) : s.coreReset.ready = false := rfl
@[simp] theorem State.coreReset_onCurve (s : State) : s.coreReset.onCurve = false := rfl
@[simp] theorem State.coreReset_rej (s : State) : s.coreReset.rej = false := rfl
@[simp] theorem State.coreReset_fatalCode (s : State) : s.coreReset.fatalCode = 0#8 := rfl
@[simp] theorem State.coreReset_rejCode (s : State) : s.coreReset.rejCode = 0#8 := rfl
@[simp] theorem State.coreReset_cmd (s : State) : s.coreReset.cmd = 0#32 := rfl
@[simp] theorem State.coreReset_seedValid (s : State) : s.coreReset.seedValid = false := rfl
@[simp] theorem State.coreReset_seedFail (s : State) : s.coreReset.seedFail = false := rfl
@[simp] theorem State.coreReset_a (s : State) : s.coreReset.a = 0#512 := rfl
@[simp] theorem State.coreReset_m (s : State) : s.coreReset.m = 0#256 := rfl
@[simp] theorem State.coreReset_x1 (s : State) : s.coreReset.x1 = 0#256 := rfl
@[simp] theorem State.coreReset_y1 (s : State) : s.coreReset.y1 = 0#256 := rfl
@[simp] theorem State.coreReset_x2 (s : State) : s.coreReset.x2 = 0#256 := rfl
@[simp] theorem State.coreReset_y2 (s : State) : s.coreReset.y2 = 0#256 := rfl
@[simp] theorem State.coreReset_k (s : State) : s.coreReset.k = 0#256 := rfl
@[simp] theorem State.coreReset_seed (s : State) : s.coreReset.seed = 0#256 := rfl
@[simp] theorem State.coreReset_r (s : State) : s.coreReset.r = 0#256 := rfl
@[simp] theorem State.coreReset_rx (s : State) : s.coreReset.rx = 0#256 := rfl
@[simp] theorem State.coreReset_ry (s : State) : s.coreReset.ry = 0#256 := rfl
@[simp] theorem State.coreReset_gx (s : State) : s.coreReset.gx = s.gx := rfl
@[simp] theorem State.coreReset_gy (s : State) : s.coreReset.gy = s.gy := rfl
@[simp] theorem State.coreReset_running (s : State) : s.coreReset.running = none := rfl
@[simp] theorem State.coreReset_initLeft (s : State) : s.coreReset.initLeft = s.initCycles := rfl
@[simp] theorem State.coreReset_initCycles (s : State) : s.coreReset.initCycles = s.initCycles := rfl
@[simp] theorem State.coreReset_program (s : State) : s.coreReset.program = s.program := rfl
@[simp] theorem State.coreReset_pos (s : State) : s.coreReset.pos = s.pos := rfl
@[simp] theorem State.coreReset_rdata (s : State) : s.coreReset.rdata = s.rdata := rfl
@[simp] theorem State.coreReset_turns (s : State) : s.coreReset.turns = s.turns := rfl
@[simp] theorem State.coreReset_tick (s : State) : s.coreReset.tick = s.tick := rfl

/-! ### advance -/

@[simp] theorem State.advance_vmodel (s : State) : s.advance.vmodel = s.vmodel := rfl
@[simp] theorem State.advance_ie (s : State) : s.advance.ie = s.ie := rfl
@[simp] theorem State.advance_done (s : State) : s.advance.done = s.done := rfl
@[simp] theorem State.advance_err (s : State) : s.advance.err = s.err := rfl
@[simp] theorem State.advance_ready (s : State) : s.advance.ready = s.ready := rfl
@[simp] theorem State.advance_onCurve (s : State) : s.advance.onCurve = s.onCurve := rfl
@[simp] theorem State.advance_rej (s : State) : s.advance.rej = s.rej := rfl
@[simp] theorem State.advance_fatalCode (s : State) : s.advance.fatalCode = s.fatalCode := rfl
@[simp] theorem State.advance_rejCode (s : State) : s.advance.rejCode = s.rejCode := rfl
@[simp] theorem State.advance_cmd (s : State) : s.advance.cmd = s.cmd := rfl
@[simp] theorem State.advance_seedValid (s : State) : s.advance.seedValid = s.seedValid := rfl
@[simp] theorem State.advance_seedFail (s : State) : s.advance.seedFail = s.seedFail := rfl
@[simp] theorem State.advance_a (s : State) : s.advance.a = s.a := rfl
@[simp] theorem State.advance_m (s : State) : s.advance.m = s.m := rfl
@[simp] theorem State.advance_x1 (s : State) : s.advance.x1 = s.x1 := rfl
@[simp] theorem State.advance_y1 (s : State) : s.advance.y1 = s.y1 := rfl
@[simp] theorem State.advance_x2 (s : State) : s.advance.x2 = s.x2 := rfl
@[simp] theorem State.advance_y2 (s : State) : s.advance.y2 = s.y2 := rfl
@[simp] theorem State.advance_k (s : State) : s.advance.k = s.k := rfl
@[simp] theorem State.advance_seed (s : State) : s.advance.seed = s.seed := rfl
@[simp] theorem State.advance_r (s : State) : s.advance.r = s.r := rfl
@[simp] theorem State.advance_rx (s : State) : s.advance.rx = s.rx := rfl
@[simp] theorem State.advance_ry (s : State) : s.advance.ry = s.ry := rfl
@[simp] theorem State.advance_gx (s : State) : s.advance.gx = s.gx := rfl
@[simp] theorem State.advance_gy (s : State) : s.advance.gy = s.gy := rfl
@[simp] theorem State.advance_running (s : State) : s.advance.running = s.running := rfl
@[simp] theorem State.advance_initLeft (s : State) : s.advance.initLeft = s.initLeft := rfl
@[simp] theorem State.advance_initCycles (s : State) : s.advance.initCycles = s.initCycles := rfl
@[simp] theorem State.advance_program (s : State) : s.advance.program = s.program := rfl
@[simp] theorem State.advance_pos (s : State) : s.advance.pos = s.pos + 1 := rfl
@[simp] theorem State.advance_rdata (s : State) : s.advance.rdata = s.rdata := rfl
@[simp] theorem State.advance_turns (s : State) : s.advance.turns = s.turns := rfl
@[simp] theorem State.advance_tick (s : State) : s.advance.tick = s.tick := rfl

/-! ### returning -/

@[simp] theorem State.returning_vmodel (reg : RegName) (j : Nat) (s : State) : (s.returning reg j).vmodel = s.vmodel := rfl
@[simp] theorem State.returning_ie (reg : RegName) (j : Nat) (s : State) : (s.returning reg j).ie = s.ie := rfl
@[simp] theorem State.returning_done (reg : RegName) (j : Nat) (s : State) : (s.returning reg j).done = s.done := rfl
@[simp] theorem State.returning_err (reg : RegName) (j : Nat) (s : State) : (s.returning reg j).err = s.err := rfl
@[simp] theorem State.returning_ready (reg : RegName) (j : Nat) (s : State) : (s.returning reg j).ready = s.ready := rfl
@[simp] theorem State.returning_onCurve (reg : RegName) (j : Nat) (s : State) : (s.returning reg j).onCurve = s.onCurve := rfl
@[simp] theorem State.returning_rej (reg : RegName) (j : Nat) (s : State) : (s.returning reg j).rej = s.rej := rfl
@[simp] theorem State.returning_fatalCode (reg : RegName) (j : Nat) (s : State) : (s.returning reg j).fatalCode = s.fatalCode := rfl
@[simp] theorem State.returning_rejCode (reg : RegName) (j : Nat) (s : State) : (s.returning reg j).rejCode = s.rejCode := rfl
@[simp] theorem State.returning_cmd (reg : RegName) (j : Nat) (s : State) : (s.returning reg j).cmd = s.cmd := rfl
@[simp] theorem State.returning_seedValid (reg : RegName) (j : Nat) (s : State) : (s.returning reg j).seedValid = s.seedValid := rfl
@[simp] theorem State.returning_seedFail (reg : RegName) (j : Nat) (s : State) : (s.returning reg j).seedFail = s.seedFail := rfl
@[simp] theorem State.returning_a (reg : RegName) (j : Nat) (s : State) : (s.returning reg j).a = s.a := rfl
@[simp] theorem State.returning_m (reg : RegName) (j : Nat) (s : State) : (s.returning reg j).m = s.m := rfl
@[simp] theorem State.returning_x1 (reg : RegName) (j : Nat) (s : State) : (s.returning reg j).x1 = s.x1 := rfl
@[simp] theorem State.returning_y1 (reg : RegName) (j : Nat) (s : State) : (s.returning reg j).y1 = s.y1 := rfl
@[simp] theorem State.returning_x2 (reg : RegName) (j : Nat) (s : State) : (s.returning reg j).x2 = s.x2 := rfl
@[simp] theorem State.returning_y2 (reg : RegName) (j : Nat) (s : State) : (s.returning reg j).y2 = s.y2 := rfl
@[simp] theorem State.returning_k (reg : RegName) (j : Nat) (s : State) : (s.returning reg j).k = s.k := rfl
@[simp] theorem State.returning_seed (reg : RegName) (j : Nat) (s : State) : (s.returning reg j).seed = s.seed := rfl
@[simp] theorem State.returning_r (reg : RegName) (j : Nat) (s : State) : (s.returning reg j).r = s.r := rfl
@[simp] theorem State.returning_rx (reg : RegName) (j : Nat) (s : State) : (s.returning reg j).rx = s.rx := rfl
@[simp] theorem State.returning_ry (reg : RegName) (j : Nat) (s : State) : (s.returning reg j).ry = s.ry := rfl
@[simp] theorem State.returning_gx (reg : RegName) (j : Nat) (s : State) : (s.returning reg j).gx = s.gx := rfl
@[simp] theorem State.returning_gy (reg : RegName) (j : Nat) (s : State) : (s.returning reg j).gy = s.gy := rfl
@[simp] theorem State.returning_running (reg : RegName) (j : Nat) (s : State) : (s.returning reg j).running = s.running := rfl
@[simp] theorem State.returning_initLeft (reg : RegName) (j : Nat) (s : State) : (s.returning reg j).initLeft = s.initLeft := rfl
@[simp] theorem State.returning_initCycles (reg : RegName) (j : Nat) (s : State) : (s.returning reg j).initCycles = s.initCycles := rfl
@[simp] theorem State.returning_program (reg : RegName) (j : Nat) (s : State) : (s.returning reg j).program = s.program := rfl
@[simp] theorem State.returning_pos (reg : RegName) (j : Nat) (s : State) : (s.returning reg j).pos = s.pos := rfl
@[simp] theorem State.returning_rdata (reg : RegName) (j : Nat) (s : State) : (s.returning reg j).rdata = readWord s reg j := rfl
@[simp] theorem State.returning_turns (reg : RegName) (j : Nat) (s : State) : (s.returning reg j).turns = s.turns := rfl
@[simp] theorem State.returning_tick (reg : RegName) (j : Nat) (s : State) : (s.returning reg j).tick = if readsFree s reg then s.tick + 1 else s.tick := rfl

/-! ### capture -/

@[simp] theorem State.capture_a (s : State) : s.capture.a = s.a := rfl
@[simp] theorem State.capture_m (s : State) : s.capture.m = s.m := rfl
@[simp] theorem State.capture_x1 (s : State) : s.capture.x1 = s.x1 := rfl
@[simp] theorem State.capture_y1 (s : State) : s.capture.y1 = s.y1 := rfl
@[simp] theorem State.capture_x2 (s : State) : s.capture.x2 = s.x2 := rfl
@[simp] theorem State.capture_y2 (s : State) : s.capture.y2 = s.y2 := rfl
@[simp] theorem State.capture_k (s : State) : s.capture.k = s.k := rfl
@[simp] theorem State.capture_seed (s : State) : s.capture.seed = s.seed := rfl
@[simp] theorem State.capture_seedValid (s : State) : s.capture.seedValid = s.seedValid := rfl
@[simp] theorem State.capture_seedFail (s : State) : s.capture.seedFail = s.seedFail := rfl
@[simp] theorem State.capture_vmodel (s : State) : s.capture.vmodel = s.vmodel := rfl

end Sys2Proof.Machine
end

