-- ==== Sys2Proof/Laws/Ops.lean ====
section
/-!
SUPPORT. One lemma per shared operation that says everything it can do. The proofs about instructions and steps
cite these instead of unfolding the operations.
-/

namespace Sys2Proof.Machine

/-! ### Completions -/

theorem completing_of_running {c : Command} {s : State} {sn : Snapshot} (k : Snapshot → State)
    (h : s.running = some ⟨c, sn⟩) : completing c s k = .next (k sn) := by
  simp [completing, h]

/-- A completion answers a next state only for the running command, and never a refusal. -/
theorem completing_next {c : Command} {s t : State} {k : Snapshot → State}
    (h : completing c s k = .next t) : ∃ sn, s.running = some ⟨c, sn⟩ ∧ t = k sn := by
  unfold completing at h
  split at h
  · rename_i r hr
    split at h
    · rename_i hc
      obtain ⟨c', sn⟩ := r
      subst hc
      exact ⟨sn, hr, by injection h with h; exact h.symm⟩
    · cases h
  · cases h

@[simp] theorem State.finishPoint_ok (s : State) (p : Point) :
    s.finishPoint (.ok p) = { s with rx := bits256 p.x, ry := bits256 p.y }.finish := rfl

@[simp] theorem State.finishPoint_error (s : State) (e : FatalCode) : s.finishPoint (.error e) = s.fatal e := rfl

/-! ### Issuing -/

/-- A CMD write is an acceptance by a ready, unlocked, idle core of a legal word, or a rejection (R104, R105). -/
theorem State.issue_cases (s : State) (w : Word) :
    (∃ c, s.err = false ∧ s.ready = true ∧ s.running = none ∧ decodeCommand w = .ok c ∧ s.issue w = s.accept c w) ∨
    ∃ c, s.issue w = s.reject c := by
  unfold State.issue
  split
  · exact .inr ⟨_, rfl⟩
  · split
    · exact .inr ⟨_, rfl⟩
    · split
      · exact .inr ⟨_, rfl⟩
      · split
        · exact .inr ⟨_, rfl⟩
        · refine .inl ⟨_, by simp_all, by simp_all, ?_, by assumption, rfl⟩
          simpa [State.busy] using ‹¬s.busy = true›

/-! ### Bus accesses -/

/-- A read access that does not fault reaches a mapped word and returns it (R97). -/
theorem busRead_ok {off : Offset} {s t : State} (h : busRead off s = .ok t) :
    ∃ reg j, locate off = .ok (reg, j) ∧ t = s.returning reg j := by
  unfold busRead at h
  split at h
  · cases h
  · rename_i reg j hl
    exact ⟨reg, j, hl, by injection h with h; exact h.symm⟩

/-- A write access that does not fault reaches a writable word and writes it (R99). -/
theorem busWrite_ok {off : Offset} {v : Word} {s t : State} (h : busWrite off v s = .ok t) :
    ∃ reg j, locate off = .ok (reg, j) ∧ writeWord reg j v s = some t := by
  unfold busWrite at h
  split at h
  · cases h
  · rename_i reg j hl
    split at h
    · cases h
    · rename_i u hu
      exact ⟨reg, j, hl, by injection h with h; rw [hu, h]⟩

theorem execRd_next {off : Offset} {s t : State} (h : execRd off s = .next t) :
    ∃ reg j, locate off = .ok (reg, j) ∧ t = (s.returning reg j).advance := by
  unfold execRd at h
  split at h
  · cases h
  · rename_i u hu
    obtain ⟨reg, j, hl, rfl⟩ := busRead_ok hu
    exact ⟨reg, j, hl, by injection h with h; exact h.symm⟩

theorem execWr_next {off : Offset} {v : Word} {s t : State} (h : execWr off v s = .next t) :
    ∃ reg j u, locate off = .ok (reg, j) ∧ writeWord reg j v s = some u ∧ t = u.advance := by
  unfold execWr at h
  split at h
  · cases h
  · rename_i u hu
    obtain ⟨reg, j, hl, hw⟩ := busWrite_ok hu
    exact ⟨reg, j, u, hl, hw, by injection h with h; exact h.symm⟩

theorem execPoll_next {off : Offset} {mask : Word} {s t : State} (h : execPoll off mask s = .next t) :
    ∃ reg j, locate off = .ok (reg, j) ∧
      (t = s.returning reg j ∨ t = (s.returning reg j).advance) := by
  unfold execPoll at h
  split at h
  · cases h
  · rename_i u hu
    obtain ⟨reg, j, hl, rfl⟩ := busRead_ok hu
    injection h with h
    refine ⟨reg, j, hl, ?_⟩
    split at h
    · exact .inr h.symm
    · exact .inl h.symm

/-! ### Turns -/

/-- A settled turn is taken from the front of the list. -/
theorem State.takeTurn_of_cons {s : State} {t : Turn} {ts : List Turn} (h : s.turns = t :: ts) :
    s.takeTurn = (t, { s with turns := ts }) := by
  simp [State.takeTurn, h]

/-- Taking a turn changes only the settled turns and the counter of free values. -/
theorem State.takeTurn_frame (s : State) :
    ∃ ts n, s.takeTurn.2 = { s with turns := ts, tick := n } := by
  unfold State.takeTurn
  split
  · exact ⟨_, s.tick, rfl⟩
  · exact ⟨_, _, rfl⟩

/-- What a step is, by the agent that moves. -/
theorem step_cases {s t : State} (h : step s = .next t) :
    (s.takeTurn.1 = .host ∧ hostTurn s.takeTurn.2 = .next t) ∨
    (s.takeTurn.1 = .engine ∧ engineTurn s.takeTurn.2 = .next t) ∨
    (s.takeTurn.1 = .reset ∧ t = s.takeTurn.2.coreReset) := by
  unfold step agentTurn at h
  split at h
  · exact .inl ⟨by assumption, h⟩
  · exact .inr (.inl ⟨by assumption, h⟩)
  · refine .inr (.inr ⟨by assumption, ?_⟩)
    unfold resetTurn at h
    injection h with h
    exact h.symm

/-- A host turn does nothing after the last record, and otherwise runs the record's instruction (R95). -/
theorem hostTurn_next {s t : State} (h : hostTurn s = .next t) :
    (s.program[s.pos]? = none ∧ t = s) ∨
    ∃ w i, s.program[s.pos]? = some w ∧ decodeRecord w = .ok i ∧ exec i s = .next t := by
  unfold hostTurn at h
  split at h
  · exact .inl ⟨by assumption, by injection h with h; exact h.symm⟩
  · split at h
    · cases h
    · exact .inr ⟨_, _, by assumption, by assumption, h⟩

/-- An engine turn is one cycle of the initialisation, or idle, or a completion (R107, R122, R125). -/
theorem engineTurn_next {s t : State} (h : engineTurn s = .next t) :
    (s.ready = false ∧ t = s.initStep) ∨
    (s.ready = true ∧ s.running = none ∧ t = s) ∨
    ∃ r, s.ready = true ∧ s.running = some r ∧ exec r.cmd.toInstr s = .next t := by
  unfold engineTurn at h
  split at h
  · exact .inl ⟨by assumption, by injection h with h; exact h.symm⟩
  · split at h
    · exact .inr (.inl ⟨by simp_all, by assumption, by injection h with h; exact h.symm⟩)
    · exact .inr (.inr ⟨_, by simp_all, by assumption, h⟩)

/-- A record is an RD, a WR or a POLL (R56). -/
theorem decodeRecord_ok {w : Record} {i : Instr} (h : decodeRecord w = .ok i) :
    i = .rd (Record.offset w) ∨ i = .wr (Record.offset w) (Record.data w)
      ∨ i = .poll (Record.offset w) (Record.data w) := by
  unfold decodeRecord at h
  split at h
  · cases h
  · split at h
    · cases h
    · split at h
      · split at h
        · exact .inl (by injection h with h; exact h.symm)
        · cases h
      · split at h
        · exact .inr (.inl (by injection h with h; exact h.symm))
        · exact .inr (.inr (by injection h with h; exact h.symm))

end Sys2Proof.Machine
end

