-- ==== Sys2Proof/Laws/PerInstr.lean ====
section
/-!
SUPPORT. For every instruction, one lemma that its encoding is a word of its row of spec/opcode_table.json: the
row's length, and the row's match under the row's mask.
-/

namespace Sys2Proof.Laws.TableRow

/-- A row of spec/opcode_table.json, as far as it fixes bits. -/
structure Row where
  nbits : Nat
  mask : Nat
  value : Nat
  deriving DecidableEq, Repr

/-- The row of each instruction. -/
def row : Instr → Row
  | .reduce => ⟨32, 0xFFFFFFFF, 0x00000001⟩
  | .inv => ⟨32, 0xFFFFFFFF, 0x00000002⟩
  | .padd => ⟨32, 0xFFFFFFFF, 0x00000003⟩
  | .pdbl => ⟨32, 0xFFFFFFFF, 0x00000004⟩
  | .smul => ⟨32, 0xFFFFFFFF, 0x00000005⟩
  | .clamp => ⟨32, 0xFFFFFFFF, 0x00000006⟩
  | .derive => ⟨32, 0xFFFFFFFF, 0x00000007⟩
  | .check => ⟨32, 0xFFFFFFFF, 0x00000008⟩
  | .rd _ => ⟨48, 0xF000FFFFFFFF, 0x000000000000⟩
  | .wr _ _ => ⟨48, 0xF00000000000, 0x400000000000⟩
  | .poll _ _ => ⟨48, 0xF00000000000, 0x800000000000⟩

/-- The encoding has the row's length, and the row's bits under the row's mask. -/
def Statement (i : Instr) : Prop :=
  (encode i).nbits = (row i).nbits ∧ (encode i).word < 2 ^ (row i).nbits
    ∧ (encode i).word &&& (row i).mask = (row i).value

theorem reduce : Statement .reduce := by unfold Statement; decide
theorem inv : Statement .inv := by unfold Statement; decide
theorem padd : Statement .padd := by unfold Statement; decide
theorem pdbl : Statement .pdbl := by unfold Statement; decide
theorem smul : Statement .smul := by unfold Statement; decide
theorem clamp : Statement .clamp := by unfold Statement; decide
theorem derive : Statement .derive := by unfold Statement; decide
theorem check : Statement .check := by unfold Statement; decide

/-- The fixed bits of a record are those of KIND and RSV, and DATA of an RD (R56). -/
theorem mkRecord_and_mask (kind : BitVec 2) (off : Offset) (data : Word) :
    mkRecord kind off data &&& 0xF00000000000#48 = mkRecord kind 0#12 0#32 := by
  apply BitVec.eq_of_getLsbD_eq
  intro b hb
  simp only [mkRecord, BitVec.getLsbD_and, BitVec.getLsbD_append]
  have : ∀ b < 48, (0xF00000000000#48).getLsbD b = decide (44 ≤ b) := by decide
  rw [this b hb]
  by_cases h : 44 ≤ b
  · have h1 : ¬ b < 32 := by omega
    have h2 : ¬ b - 32 < 12 := by omega
    simp [h, h1, h2]
  · have h' : b - 32 < 12 ∨ b < 32 := by omega
    rcases h' with h' | h' <;> simp [h, h']

theorem mkRecord_and_read_mask (off : Offset) :
    mkRecord 0#2 off 0#32 &&& 0xF000FFFFFFFF#48 = 0#48 := by
  apply BitVec.eq_of_getLsbD_eq
  intro b hb
  simp only [mkRecord, BitVec.getLsbD_and, BitVec.getLsbD_append]
  have : ∀ b < 48, (0xF000FFFFFFFF#48).getLsbD b = (decide (44 ≤ b) || decide (b < 32)) := by decide
  rw [this b hb]
  by_cases h : b < 32
  · simp [h]
  · by_cases h2 : b - 32 < 12
    · have : ¬ 44 ≤ b := by omega
      simp [h, this]
    · simp [h, h2]

theorem rd (off : Offset) : Statement (.rd off) := by
  refine ⟨rfl, (mkRecord 0#2 off 0#32).isLt, ?_⟩
  exact congrArg BitVec.toNat (mkRecord_and_read_mask off)

theorem wr (off : Offset) (data : Word) : Statement (.wr off data) := by
  refine ⟨rfl, (mkRecord 1#2 off data).isLt, ?_⟩
  exact (congrArg BitVec.toNat (mkRecord_and_mask 1#2 off data)).trans
    (show (mkRecord 1#2 0#12 0#32).toNat = 0x400000000000 by decide)

theorem poll (off : Offset) (mask : Word) : Statement (.poll off mask) := by
  refine ⟨rfl, (mkRecord 2#2 off mask).isLt, ?_⟩
  exact (congrArg BitVec.toNat (mkRecord_and_mask 2#2 off mask)).trans
    (show (mkRecord 2#2 0#12 0#32).toNat = 0x800000000000 by decide)

end Sys2Proof.Laws.TableRow
end

