-- ==== Sys2Proof/Laws/Registers.lean ====
section
/-!
SUPPORT. The register map finds every word it lists, no two rows overlap, and writing a word of a wide register
changes that word and no other.
-/

namespace Sys2Proof.Machine

/-- Every word of every row of the map is found at its offset (R21, R42). -/
theorem locate_mapped :
    ∀ row ∈ registerMap, ∀ j < row.words, locate (BitVec.ofNat 12 (row.base + 4 * j)) = .ok (row.reg, j) := by
  decide

/-- An access that reaches a word reaches one that the map lists (R41). -/
theorem findWord_some {rows : List MapRow} {o j : Nat} {reg : RegName} (h : findWord rows o = some (reg, j)) :
    ∃ row ∈ rows, row.reg = reg ∧ row.base ≤ o ∧ o < row.base + 4 * row.words ∧ j = (o - row.base) / 4 := by
  induction rows with
  | nil => simp [findWord] at h
  | cons row rest ih =>
    unfold findWord at h
    split at h
    · rename_i hb
      simp only [Option.some.injEq, Prod.mk.injEq] at h
      exact ⟨row, by simp, h.1, hb.1, hb.2, h.2.symm⟩
    · obtain ⟨r, hr, h⟩ := ih h
      exact ⟨r, by simp [hr], h⟩

/-- An access that gets OKAY reaches word j of a row, at the row's base + 4j (R42). -/
theorem locate_ok {off : Offset} {reg : RegName} {j : Nat} (h : locate off = .ok (reg, j)) :
    ∃ row ∈ registerMap, row.reg = reg ∧ j < row.words ∧ off.toNat = row.base + 4 * j := by
  unfold locate at h
  split at h
  · cases h
  · rename_i ha
    split at h
    · cases h
    · rename_i w hw
      injection h with h
      subst h
      obtain ⟨row, hr, hreg, hlo, hhi, hj⟩ := findWord_some hw
      have hb : ∀ row ∈ registerMap, row.base % 4 = 0 := by decide
      have := hb row hr
      exact ⟨row, hr, hreg, by omega, by omega⟩

theorem wideWord_getLsbD {n : Nat} (v : BitVec n) (j b : Nat) :
    (wideWord v j).getLsbD b = (decide (b < 32) && v.getLsbD (32 * j + b)) := by
  simp [wideWord]

theorem setWideWord_getLsbD {n : Nat} (v : BitVec n) (j : Nat) (w : Word) (b : Nat) (hb : b < n) :
    (setWideWord v j w).getLsbD b =
      if 32 * j ≤ b ∧ b < 32 * j + 32 then w.getLsbD (b - 32 * j) else v.getLsbD b := by
  have ones (k : Nat) (h : k < 32) : (0xFFFFFFFF#32).getLsbD k = true := by
    have : (0xFFFFFFFF#32) = BitVec.allOnes 32 := by decide
    rw [this, BitVec.getLsbD_allOnes]
    simpa using h
  simp only [setWideWord, BitVec.getLsbD_or, BitVec.getLsbD_and, BitVec.getLsbD_not, BitVec.getLsbD_shiftLeft,
    BitVec.getLsbD_setWidth, hb, decide_true, Bool.true_and]
  by_cases h1 : b < 32 * j
  · have h : ¬ (32 * j ≤ b ∧ b < 32 * j + 32) := by omega
    simp [h1, h]
  · have h2 : b - 32 * j < n := by omega
    by_cases h3 : b < 32 * j + 32
    · have h : 32 * j ≤ b ∧ b < 32 * j + 32 := by omega
      simp [h1, h, h2, ones (b - 32 * j) (by omega)]
    · have h : ¬ (32 * j ≤ b ∧ b < 32 * j + 32) := by omega
      have hz : w.getLsbD (b - 32 * j) = false := BitVec.getLsbD_of_ge _ _ (by omega)
      have hf : (0xFFFFFFFF#32).getLsbD (b - 32 * j) = false := BitVec.getLsbD_of_ge _ _ (by omega)
      simp [h1, h, hz, hf]

/-- The word written reads back (R42, R48). -/
theorem wideWord_setWideWord_self {n : Nat} (v : BitVec n) (j : Nat) (w : Word) (hj : 32 * j + 32 ≤ n) :
    wideWord (setWideWord v j w) j = w := by
  ext b hb
  have h := setWideWord_getLsbD v j w (32 * j + b) (by omega)
  rw [← BitVec.getLsbD_eq_getElem, ← BitVec.getLsbD_eq_getElem, wideWord_getLsbD, h]
  simp [hb]

/-- The other words stay (R44). -/
theorem wideWord_setWideWord_other {n : Nat} (v : BitVec n) (i j : Nat) (w : Word) (hij : i ≠ j)
    (hi : 32 * i + 32 ≤ n) : wideWord (setWideWord v j w) i = wideWord v i := by
  ext b hb
  have h := setWideWord_getLsbD v j w (32 * i + b) (by omega)
  rw [← BitVec.getLsbD_eq_getElem, ← BitVec.getLsbD_eq_getElem, wideWord_getLsbD, h, wideWord_getLsbD]
  have : ¬ (32 * j ≤ 32 * i + b ∧ 32 * i + b < 32 * j + 32) := by omega
  simp [this]

/-- A wide register is its words (R42). -/
theorem eq_of_wideWord {m : Nat} {v w : BitVec (32 * m)} (h : ∀ j < m, wideWord v j = wideWord w j) : v = w := by
  apply BitVec.eq_of_getLsbD_eq
  intro b hb
  have h' := congrArg (fun x => x.getLsbD (b % 32)) (h (b / 32) (by omega))
  simp only [wideWord_getLsbD, Nat.mod_lt b (show 0 < 32 by omega), decide_true, Bool.true_and, Nat.div_add_mod] at h'
  exact h'

end Sys2Proof.Machine
end

