-- ==== Sys2Proof/Laws/Run.lean ====
section
/-!
SUPPORT. Runs of several steps, in terms of `step` on `State`.
-/

namespace Sys2Proof.Machine

@[simp] theorem run_zero (s : State) : Sys2Proof.core.run 0 s = .next s := rfl

theorem run_next {s t : State} (h : step s = .next t) (n : Nat) :
    Sys2Proof.core.run (n + 1) s = Sys2Proof.core.run n t := by
  have : Sys2Proof.core.step s = .next t := h
  simp only [Host.Core.run, this]

theorem run_fault {s : State} {e : Fault} (h : step s = .fault e) (n : Nat) :
    Sys2Proof.core.run (n + 1) s = .fault e := by
  have : Sys2Proof.core.step s = .fault e := h
  simp only [Host.Core.run, this]

theorem run_refused {s : State} {e : Refusal} (h : step s = .refused e) (n : Nat) :
    Sys2Proof.core.run (n + 1) s = .refused e := by
  have : Sys2Proof.core.step s = .refused e := h
  simp only [Host.Core.run, this]

end Sys2Proof.Machine
end

