-- ==== Sys2Proof/Tests/Slice0.lean ====
section
/-!
SUPPORT. Small tests, one step each, with the expected values from spec/95_test_vectors.md and from the rules, and a
witness for the hypotheses of every obligation that has any.
-/

namespace Sys2Proof.Tests

open Sys2Proof.Machine

/-! ## Helpers -/

/-- A ready, idle core with every other register at its reset value and the default base point. -/
def idle : State := { State.powerOn Config.gX Config.gY 0 with ready := true }

/-- The core right after it accepted `c`. -/
def issued (c : Command) (s : State) : State := s.accept c c.word

/-- The core with the operand points. -/
def withPoints (x1 y1 x2 y2 : Nat) : State :=
  { idle with x1 := bits256 x1, y1 := bits256 y1, x2 := bits256 x2, y2 := bits256 y2 }

/-- One field of the state an outcome answers. -/
def view {α : Type} (o : Host.Outcome State Fault Refusal) (f : State → α) : Option α :=
  match o with
  | .next t => some (f t)
  | .fault _ => none
  | .refused _ => none

/-- The fault an outcome stops with. -/
def faultOf (o : Host.Outcome State Fault Refusal) : Option Fault :=
  match o with
  | .next _ => none
  | .fault e => some e
  | .refused _ => none

/-- The base point G. -/
def pointG : Point := ⟨Config.gX.toNat, Config.gY.toNat⟩

/-- inv_P(D) (spec/95_test_vectors.md, section 2.3). -/
def inverseD : Nat := 29203323570479832313932222820853031755424015489030106335172286495629888845891

/-- The point Q of spec/95_test_vectors.md, section 2.5. -/
def pointQ : Point := ⟨1, 9054638461195409785330677176660387548851519266605856721408485707111576293335⟩

/-! ## Well-formed words (R56, R60, U14) -/

theorem test_illegal_kind_is_ill_formed :
    Record.wellFormed 0xC00800000002#48 = false ∧ decodeRecord 0xC00800000002#48 = .error .illegalKind := by decide

theorem test_reserved_record_bits_are_ill_formed :
    (Record.wellFormed 0x501000000001#48 = false ∧ decodeRecord 0x501000000001#48 = .error .reservedBits)
    ∧ Record.wellFormed 0x601000000001#48 = false := by decide

theorem test_read_with_data_is_ill_formed :
    Record.wellFormed 0x000800000001#48 = false ∧ decodeRecord 0x000800000001#48 = .error .readWithData := by decide

theorem test_record_offset_is_not_checked :
    Record.wellFormed 0x400200000000#48 = true ∧ Record.wellFormed 0x0FFF00000000#48 = true := by decide

theorem test_program_with_an_ill_formed_record_is_ill_formed :
    wellFormedProgram [0x401000000001#48, 0xC00800000002#48] = false
    ∧ wellFormedProgram [0x401000000001#48, 0x800800000002#48] = true := by decide

theorem test_reserved_command_bits_are_ill_formed :
    wellFormedCommand 0x00000101#32 = false ∧ wellFormedCommand 0x80000001#32 = false := by decide

theorem test_unassigned_opcodes_are_ill_formed :
    wellFormedCommand 0x00000000#32 = false ∧ wellFormedCommand 0x00000009#32 = false
    ∧ wellFormedCommand 0x000000FF#32 = false ∧ wellFormedCommand 0x00000008#32 = true := by decide

/-! ## Decoding of words written out from R55, R56 and R58 -/

theorem test_decode_reduce : decodeTableWord 32 0x00000001 = some .reduce := by decide
theorem test_decode_inv : decodeTableWord 32 0x00000002 = some .inv := by decide
theorem test_decode_padd : decodeTableWord 32 0x00000003 = some .padd := by decide
theorem test_decode_pdbl : decodeTableWord 32 0x00000004 = some .pdbl := by decide
theorem test_decode_smul : decodeTableWord 32 0x00000005 = some .smul := by decide
theorem test_decode_clamp : decodeTableWord 32 0x00000006 = some .clamp := by decide
theorem test_decode_derive : decodeTableWord 32 0x00000007 = some .derive := by decide
theorem test_decode_check : decodeTableWord 32 0x00000008 = some .check := by decide

/-- `RD STATUS` is `000800000000` (R62). -/
theorem test_decode_rd : decodeTableWord 48 0x000800000000 = some (.rd 0x008#12) := by decide

/-- `WR X1.w0, 9` is `40A000000009` (R62). -/
theorem test_decode_wr : decodeTableWord 48 0x40A000000009 = some (.wr 0x0A0#12 9#32) := by decide

/-- `POLL STATUS, 0x00000002` is `800800000002` (R62). -/
theorem test_decode_poll : decodeTableWord 48 0x800800000002 = some (.poll 0x008#12 2#32) := by decide

/-- KIND 01, RSV 00, OFFSET 1111_1111_1111, DATA 1010...: the fields in their places, bit by bit (R56). -/
theorem test_decode_record_bit_by_bit :
    decodeTableWord 48 0b01_00_111111111101_10100000000000000000000000000101
      = some (.wr 0xFFD#12 0xA0000005#32) := by decide

theorem test_no_other_length_exists : decodeTableWord 16 1 = none ∧ decodeTableWord 64 1 = none := by decide

/-- The first TXN records of program P3 (spec/95_test_vectors.md) as its lines assemble (R62 to R65). -/
theorem test_assemble_lines_of_p3 :
    assemble [.command .clamp, .wait, .rd .status 0, .rd .errcode 0, .command .reduce, .softReset, .waitReady,
        .seedOk, .rd .k 7]
      = some [0x401000000006#48, 0x800800000002#48, 0x000800000000#48, 0x000C00000000#48, 0x401000000001#48,
        0x400400000001#48, 0x800800000008#48, 0x401400000001#48, 0x013C00000000#48] := by decide

/-- A 32-bit value outside [-2^31, 2^32) and a word that a register has not are refused (R62). -/
theorem test_assembler_refuses :
    expand (.wr .a 0 4294967296) = none ∧ expand (.wr .a 0 (-2147483649)) = none ∧ expand (.rd .a 16) = none
    ∧ expand (.wr .a 0 (-1)) = some [.wr 0x040#12 0xFFFFFFFF#32] := by decide

/-! ## One step of each command (spec/95_test_vectors.md, section 2) -/

theorem test_reduce_of_minus_one :
    view (exec .reduce (issued .reduce { idle with a := -1#512 })) (fun t => (t.r.toNat, t.done, t.busy))
      = some (fieldPrime - 1, true, false) := by decide +kernel

theorem test_reduce_of_the_smallest :
    view (exec .reduce (issued .reduce { idle with a := BitVec.ofInt 512 (-(2 ^ 511)) })) (fun t => t.r.toNat)
      = some 57896044618658097711785492504343953926634992332820282019728792003956564819227 := by decide +kernel

theorem test_inv_of_three_mod_seven :
    view (exec .inv (issued .inv { idle with a := BitVec.ofNat 512 (2 ^ 300 + 3), m := 7#256 }))
      (fun t => (t.r.toNat, t.err)) = some (5, false) := by decide +kernel

theorem test_inv_of_six_mod_nine_locks :
    view (exec .inv (issued .inv { idle with a := 6#512, m := 9#256, r := 77#256 }))
      (fun t => (t.r.toNat, t.err, t.fatalCode, t.done)) = some (77, true, 0x01#8, true) := by decide +kernel

theorem test_padd_off_the_curve :
    view (exec .padd (issued .padd (withPoints 1 1 2 3))) (fun t => (t.rx.toNat, t.ry.toNat))
      = some (32674237186449961135552640654710878082023339137942711945149575716306350061144,
        52545567327643763005632082004039963538790917135150150984845254163016789381605) := by decide +kernel

theorem test_padd_with_zero_y_denominator_locks :
    view (exec .padd (issued .padd (withPoints 1 1 1 inverseD))) (fun t => (t.err, t.fatalCode, t.rx.toNat))
      = some (true, 0x01#8, 0) := by decide +kernel

theorem test_pdbl_of_one_one :
    view (exec .pdbl (issued .pdbl (withPoints 1 1 2 3))) (fun t => (t.rx.toNat, t.ry.toNat))
      = some (243332,
        51380297829790456491237162401597246033761091082941378702394490295467508647106) := by decide +kernel

theorem test_pdbl_of_x_axis_point :
    view (exec .pdbl (issued .pdbl (withPoints 3 0 0 0))) (fun t => (t.rx.toNat, t.ry.toNat)) = some (0, 9) := by
  decide +kernel

theorem test_smul_by_three :
    view (exec .smul (issued .smul { withPoints pointG.x pointG.y 0 0 with k := 3#256 }))
      (fun t => (t.rx.toNat, t.ry.toNat))
      = some (46896733464454938657123544595386787789046198280132665686241321779790909858396,
        8324843778533443976490377120369201138301417226297555316741202210403726505172) := by decide +kernel

theorem test_smul_by_three_of_q_locks :
    view (exec .smul (issued .smul { withPoints pointQ.x pointQ.y 0 0 with k := 3#256 }))
      (fun t => (t.err, t.fatalCode)) = some (true, 0x01#8) := by decide +kernel

theorem test_clamp_of_all_ones :
    view (exec .clamp (issued .clamp { idle with seed := BitVec.allOnes 256, seedValid := true }))
      (fun t => (t.r.toNat, t.k.toNat, t.seed.toNat, t.seedValid))
      = some (0xF8FFFFFFFFFFFFFFFFFFFFFFFFFFFFFFFFFFFFFFFFFFFFFFFFFFFFFFFFFFFF7F,
        0x78FFFFFFFFFFFFFFFFFFFFFFFFFFFFFFFFFFFFFFFFFFFFFFFFFFFFFFFFFFFF92, 0, false) := by decide

theorem test_clamp_of_a_failed_source_locks :
    view (exec .clamp (issued .clamp { idle with seed := 5#256, seedValid := true, seedFail := true }))
      (fun t => (t.fatalCode, t.seed.toNat, t.seedValid)) = some (0x04#8, 5, true) := by decide

theorem test_derive_by_five :
    view (exec .derive (issued .derive { idle with k := 5#256 })) (fun t => (t.rx.toNat, t.ry.toNat, t.onCurve))
      = some (33467004535436536005251147249499675200073690106659565782908757308821616914995,
        43097193783671926753355113395909008640284023746042808659097434958891230611693, true) := by decide +kernel

theorem test_derive_under_the_source_equation_locks :
    view (exec .derive (issued .derive { idle with k := 1#256, vmodel := false, onCurve := true }))
      (fun t => (t.fatalCode, t.onCurve, t.rx.toNat)) = some (0x03#8, false, 0) := by decide +kernel

theorem test_check_of_the_montgomery_base_point :
    view (exec .check (issued .check
      { withPoints 9 14781619447589544791020593568409986887264606134616475288964881837755586237401 0 0 with
        vmodel := false })) (fun t => (t.r.toNat, t.onCurve)) = some (1, true) := by decide

theorem test_check_of_an_unreduced_point :
    view (exec .check (issued .check (withPoints (pointG.x + fieldPrime) pointG.y 0 0)))
      (fun t => (t.r.toNat, t.onCurve)) = some (1, true) := by decide

/-! ## One step of each transaction (spec/95_test_vectors.md, section 2.9) -/

theorem test_rd_status_when_ready :
    view (exec (.rd 0x008#12) idle) (fun t => (t.rdata, t.pos)) = some (0x00000008#32, 1) := by decide

theorem test_rd_misaligned_gets_error :
    faultOf (exec (.rd 0x002#12) idle) = some (.busError .misaligned 0x002#12 (some 0#32)) := by decide

theorem test_wr_all_ones_to_status_keeps_the_lock :
    view (exec (.wr 0x008#12 0xFFFFFFFF#32)
      { idle with err := true, fatalCode := 1#8, done := true, rej := true, rejCode := 4#8 })
      (fun t => (t.done, t.rej, t.rejCode, t.err, t.fatalCode))
      = some (false, false, 0#8, true, 1#8) := by decide

theorem test_wr_illegal_command_while_busy_is_busy :
    view (exec (.wr 0x010#12 0x000000FF#32) (issued .smul idle)) (fun t => (t.rejCode, t.cmd, t.busy))
      = some (0x02#8, 5#32, true) := by decide

theorem test_poll_goes_on_when_every_bit_is_set :
    view (exec (.poll 0x008#12 0x0000000A#32) { idle with done := true }) (fun t => t.pos) = some 1 := by decide

theorem test_poll_repeats_when_a_bit_is_clear :
    view (exec (.poll 0x008#12 0x0000000A#32) idle) (fun t => t.pos) = some 0 := by decide

/-! ## The turns -/

theorem test_a_placed_command_runs_in_the_next_step :
    view (step (State.reset.withFetchWord 32 0x00000001)) (fun t => (t.done, t.r.toNat)) = some (true, 0) := by
  decide +kernel

theorem test_a_placed_record_runs_in_the_next_step :
    view (step (State.reset.withFetchWord 48 0x40A000000009)) (fun t => (t.x1.toNat, t.pos)) = some (9, 1) := by
  decide

theorem test_an_illegal_command_word_is_placed_as_a_cmd_write :
    view (step ((State.powerOn 0 0 0).withFetchWord 32 0x00000009)) (fun t => (t.rej, t.rejCode))
      = some (true, 0x03#8) := by decide

/-! ## Witnesses: states and operands that meet the hypotheses of the obligations -/

theorem test_witness_RecordsAreTheWellFormedWords :
    (decodeRecord 0x000000000000#48 = .ok (.rd 0x000#12) ∧ decodeRecord 0x7FFFFFFFFFFF#48 = .error .reservedBits)
    ∧ decodeRecord 0x4FFFFFFFFFFF#48 = .ok (.wr 0xFFF#12 0xFFFFFFFF#32)
    ∧ decodeRecord 0x800000000000#48 = .ok (.poll 0x000#12 0#32)
    ∧ decodeCommand 0x00000008#32 = .ok .check := by decide

theorem test_witness_CommandWordsDecodeByTheOpcodeMap :
    decodeCommand 0x00000000#32 = .error .illegalCommand ∧ decodeCommand 0x00000001#32 = .ok .reduce
    ∧ decodeCommand 0x00000008#32 = .ok .check ∧ decodeCommand 0x00000009#32 = .error .illegalCommand
    ∧ decodeCommand 0x000000FF#32 = .error .illegalCommand
    ∧ decodeCommand 0x00000101#32 = .error .illegalCommand := by decide

/-- The ends of the value range and of the words, and a register with a single word. -/
theorem test_witness_StatementsExpandToTheirTransactions :
    (∀ v ∈ [(-2 ^ 31 : Int), 2 ^ 32 - 1], -2 ^ 31 ≤ v ∧ v < 2 ^ 32)
    ∧ (∀ v ∈ [(-2 ^ 31 - 1 : Int), 2 ^ 32], v < -2 ^ 31 ∨ 2 ^ 32 ≤ v)
    ∧ ⟨.a, 0x040, 16⟩ ∈ registerMap ∧ 15 < (⟨.a, 0x040, 16⟩ : MapRow).words ∧ 8 ≤ (⟨.m, 0x080, 8⟩ : MapRow).words
    ∧ ⟨.cmd, 0x010, 1⟩ ∈ registerMap ∧ (⟨.cmd, 0x010, 1⟩ : MapRow).words < 8
    ∧ (List.replicate 32 0x80#8).length = 32 ∧ (List.replicate 31 0x80#8).length ≠ 32 := by decide

theorem test_witness_WideStatementsMoveTheWholeValue :
    RegName.m ∈ [RegName.m, .x1, .y1, .x2, .y2, .k, .seed]
    ∧ (∀ reg ∈ [RegName.a, .m, .x1, .y1, .x2, .y2, .k, .seed, .r, .rx, .ry, .prime, .dconst, .gx, .gy], (readable256 idle reg).isSome = true)
    ∧ (∀ prog n, ({ idle with program := prog, turns := List.replicate n .host } : State).runsProgram prog n)
    ∧ (List.replicate 32 0x80#8).length = 32 := by
  refine ⟨by decide, by decide +kernel, fun _ _ => ⟨rfl, rfl, rfl⟩, by decide⟩

theorem test_witness_StepRunsTheDecodedInstruction :
    (∃ (s : State) (ts : List Turn) (w : Record) (i : Instr),
      s.turns = .host :: ts ∧ s.program[s.pos]? = some w ∧ decodeRecord w = .ok i)
    ∧ ∃ (s : State) (ts : List Turn) (r : Running), s.turns = .engine :: ts ∧ s.ready = true ∧ s.running = some r :=
  ⟨⟨{ idle with turns := [.host], program := [0x40A000000009#48] }, [], 0x40A000000009#48, .wr 0x0A0#12 9#32,
      rfl, rfl, by decide⟩,
    ⟨{ issued .padd idle with turns := [.engine, .host] }, [.host], ⟨.padd, idle.capture⟩, rfl, rfl, rfl⟩⟩

theorem test_witness_TurnsThatRunNoInstruction :
    (∃ (s : State) (ts : List Turn), s.turns = .host :: ts ∧ s.program.length ≤ s.pos)
    ∧ (∃ (s : State) (ts : List Turn) (w : Record) (e : DecodeError),
        s.turns = .host :: ts ∧ s.program[s.pos]? = some w ∧ decodeRecord w = .error e)
    ∧ ∃ (s : State) (ts : List Turn), s.turns = .engine :: ts ∧ s.ready = true ∧ s.running = none :=
  ⟨⟨{ idle with turns := [.host] }, [], rfl, by decide⟩,
    ⟨{ idle with turns := [.host], program := [0xC00800000002#48] }, [], 0xC00800000002#48, .illegalKind,
      rfl, rfl, by decide⟩,
    ⟨{ idle with turns := [.engine] }, [], rfl, rfl, rfl⟩⟩

theorem test_witness_SoftResetResetsTheCore :
    (1#32).getLsbD 0 = true ∧ (0xFFFFFFFF#32).getLsbD 0 = true := by decide

theorem test_witness_HardwareResetResetsTheCore :
    { issued .smul idle with turns := [Turn.reset] }.turns = .reset :: [] := rfl

theorem test_witness_InitialisationRaisesReady :
    ∀ n ∈ [0, 1, 2], ({ State.powerOn 0 0 n with turns := List.replicate (max 1 n) Turn.engine ++ [.host] } : State).turns
        = List.replicate (max 1 n) .engine ++ [.host]
      ∧ (State.powerOn 0 0 n).ready = false ∧ (State.powerOn 0 0 n).initLeft = n := by decide

theorem test_witness_ReduceIsTheEuclideanModulo :
    ∀ a ∈ [(-1 : Int), -(2 ^ 255 - 19)], 0 ≤ a + (1 : Nat) * (2 ^ 255 - 19)
      ∧ a + (1 : Nat) * (2 ^ 255 - 19) < 2 ^ 255 - 19 := by decide

theorem test_witness_ReduceCompletes : (issued .reduce idle).running = some ⟨.reduce, idle.capture⟩ := rfl

/-- Boundary moduli: 1, 2 and the largest. -/
theorem test_witness_InvCompletesOnCoprimeOperands :
    ∀ p ∈ [(0, 1), (5, 1), (1, 2), (2 ^ 256 - 2, 2 ^ 256 - 1), (2, fieldPrime)],
      ∃ sn, (issued .inv { idle with a := BitVec.ofNat 512 p.1, m := bits256 p.2 }).running = some ⟨.inv, sn⟩
        ∧ sn.m.toNat ≠ 0 ∧ Nat.gcd (sn.a.extractLsb' 0 256).toNat sn.m.toNat = 1 := by
  intro p hp
  refine ⟨_, rfl, ?_⟩
  revert p
  decide +kernel

theorem test_witness_InvFailsOnOtherOperands :
    (∃ sn, (issued .inv { idle with a := 5#512 }).running = some ⟨.inv, sn⟩ ∧ sn.m.toNat = 0)
    ∧ ∀ p ∈ [(0, 2), (6, 9), (fieldPrime, fieldPrime), (10, 2 ^ 256 - 1)],
      ∃ sn, (issued .inv { idle with a := BitVec.ofNat 512 p.1, m := bits256 p.2 }).running = some ⟨.inv, sn⟩
        ∧ 2 ≤ sn.m.toNat ∧ Nat.gcd (sn.a.extractLsb' 0 256).toNat sn.m.toNat ≠ 1 := by
  refine ⟨⟨_, rfl, by decide⟩, ?_⟩
  intro p hp
  refine ⟨_, rfl, ?_⟩
  revert p
  decide +kernel

theorem test_witness_InverseModuloPExistsExactlyForNonzero :
    (∀ a ∈ [0, fieldPrime], a % fieldPrime = 0)
    ∧ ∀ a ∈ [1, fieldPrime - 1, fieldPrime + 1], a % fieldPrime ≠ 0 := by decide

theorem test_witness_PaddCompletesOnNonzeroDenominators :
    ∃ sn, (issued .padd (withPoints 1 1 2 3)).running = some ⟨.padd, sn⟩
      ∧ ¬ denominatorZero sn.point1 sn.point2 := by
  refine ⟨_, rfl, ?_⟩
  unfold denominatorZero productT
  decide +kernel

/-- Each of the two denominators. -/
theorem test_witness_PaddFailsOnZeroDenominator :
    ∀ y ∈ [fieldPrime - inverseD, inverseD],
      ∃ sn, (issued .padd (withPoints 1 1 1 y)).running = some ⟨.padd, sn⟩
        ∧ denominatorZero sn.point1 sn.point2 := by
  intro y hy
  refine ⟨_, rfl, ?_⟩
  unfold denominatorZero productT
  revert y
  decide +kernel

theorem test_witness_PointAddReducesItsInputs :
    ∃ r, pointAdd ⟨fieldPrime, fieldPrime + 1⟩ ⟨2 * fieldPrime + 3, 5⟩ = .ok r := ⟨⟨3, 5⟩, by decide +kernel⟩

theorem test_witness_AdditionOnTheCurveNeverFails :
    ∀ p ∈ [identityPoint, ⟨0, fieldPrime - 1⟩, pointG, ⟨pointG.x + fieldPrime, pointG.y⟩], SatisfiesCurve p true := by
  simp only [SatisfiesCurve, if_true]
  decide +kernel

theorem test_witness_PdblCompletes : (issued .pdbl idle).running = some ⟨.pdbl, idle.capture⟩ := rfl

theorem test_witness_ScalarLoopNeedsAtMostBitLengthIterations : 0 < 2 ^ 0 ∧ 1 < 2 ^ 1 ∧ 2 ^ 256 - 1 < 2 ^ 256 := by decide

/-- Scalars of both parities, an addition that fails, and the ends of the reduced coordinates. -/
theorem test_witness_ScalarMulFollowsItsRecursion :
    (1 ≠ 0 ∧ 1 % 2 = 1 ∧ 2 % 2 = 0 ∧ pointAdd identityPoint identityPoint = .ok ⟨0, 1⟩)
    ∧ pointAdd ⟨1, 1⟩ ⟨1, inverseD⟩ = .error .nonInvertible
    ∧ identityPoint.x < fieldPrime ∧ (⟨fieldPrime - 1, fieldPrime - 1⟩ : Point).y < fieldPrime := by decide +kernel

/-- Success at K = 0, and the failure of 3 Q (R82). -/
theorem test_witness_SmulWritesTheScalarMultiple :
    (issued .smul idle).running = some ⟨.smul, idle.capture⟩
    ∧ scalarMul idle.capture.k.toNat idle.capture.point1 = .ok ⟨0, 1⟩
    ∧ scalarMul 3 pointQ = .error .nonInvertible := by
  refine ⟨rfl, ?_, ?_⟩ <;> decide +kernel

theorem test_witness_SmulOfACurvePointCompletes :
    ∃ sn, (issued .smul { withPoints 0 1 0 0 with k := BitVec.allOnes 256 }).running = some ⟨.smul, sn⟩
      ∧ SatisfiesCurve sn.point1 true := by
  refine ⟨_, rfl, ?_⟩
  simp only [SatisfiesCurve, if_true]
  decide +kernel

theorem test_witness_ClampCompletesOnAValidSeed :
    ∃ sn, (issued .clamp { idle with seedValid := true }).running = some ⟨.clamp, sn⟩
      ∧ sn.seedValid = true ∧ sn.seedFail = false := ⟨_, rfl, rfl, rfl⟩

theorem test_witness_ClampedIntegerIsBelowTwicePrime :
    ((0x7F#256).extractLsb' 0 8).toNat < 0x80 ∧ 0x80 ≤ ((0x80#256).extractLsb' 0 8).toNat := by decide

/-- Each reason alone. -/
theorem test_witness_ClampFailsWithoutAValidSeed :
    (∃ sn, (issued .clamp idle).running = some ⟨.clamp, sn⟩ ∧ sn.seedValid = false)
    ∧ ∃ sn, (issued .clamp { idle with seedValid := true, seedFail := true }).running = some ⟨.clamp, sn⟩
        ∧ sn.seedFail = true := ⟨⟨_, rfl, rfl⟩, ⟨_, rfl, rfl⟩⟩

theorem test_witness_CheckCompletes : (issued .check idle).running = some ⟨.check, idle.capture⟩ := rfl

theorem test_witness_DeriveCompletesOnAPassingKey :
    ∃ sn q, (issued .derive idle).running = some ⟨.derive, sn⟩ ∧ scalarMul sn.k.toNat idle.basePoint = .ok q
      ∧ SatisfiesCurve q sn.vmodel := by
  refine ⟨_, ⟨0, 1⟩, rfl, by decide +kernel, ?_⟩
  unfold SatisfiesCurve
  decide +kernel

/-- A base point off the curve for the first clause, VMODEL = 0 for the second. -/
theorem test_witness_DeriveFailsOtherwise :
    scalarMul 3 ({ idle with gx := bits256 pointQ.x, gy := bits256 pointQ.y } : State).basePoint
        = .error .nonInvertible
    ∧ scalarMul 0 idle.basePoint = .ok ⟨0, 1⟩ ∧ ¬ SatisfiesCurve ⟨0, 1⟩ false := by
  refine ⟨by decide +kernel, by decide +kernel, ?_⟩
  unfold SatisfiesCurve
  decide +kernel

theorem test_witness_DeriveFromACurveBasePointCompletes :
    ∀ k ∈ [0#256, 1#256], ∃ sn, (issued .derive { idle with k := k }).running = some ⟨.derive, sn⟩
      ∧ sn.vmodel = true ∧ sn.k = k ∧ SatisfiesCurve idle.basePoint true := by
  intro k _
  refine ⟨_, rfl, rfl, rfl, ?_⟩
  simp only [SatisfiesCurve, if_true]
  decide +kernel

theorem test_witness_DerivedPublicKeysAreOnTheCurve :
    view (exec .derive (issued .derive idle)) (fun t => (t.err, t.ry.toNat)) = some (false, 1) := by decide +kernel

/-- Every command completes, and a CLAMP without a seed fails. -/
theorem test_witness_CommandsChangeOnlyTheirResults :
    (∀ c ∈ [Command.reduce, .inv, .padd, .pdbl, .smul, .clamp, .derive, .check],
      view (exec c.toInstr (issued c { idle with m := 1#256, seedValid := true })) (fun t => t.err) = some false)
    ∧ view (exec .clamp (issued .clamp idle)) (fun t => t.err) = some true := by decide +kernel

/-- Live registers that differ, SEED and VALID among them, with a snapshot on which every command completes. -/
theorem test_witness_OutcomeDependsOnTheSnapshotAlone :
    ∀ c ∈ [Command.reduce, .inv, .padd, .pdbl, .smul, .clamp, .derive, .check],
      (issued c { idle with seedValid := true }).running
        = { issued c { idle with seedValid := true } with
            a := 7#512, r := 5#256, seed := 9#256, seedValid := false, vmodel := false }.running
      ∧ completes (exec c.toInstr (issued c { idle with seedValid := true })) = true
      ∧ completes (exec c.toInstr { issued c { idle with seedValid := true } with
            a := 7#512, r := 5#256, seed := 9#256, seedValid := false, vmodel := false }) = true := by
  decide +kernel

theorem test_witness_HostAccessesKeepTheRunningCommand :
    (issued .smul idle).running = some ⟨.smul, idle.capture⟩
    ∧ completes (exec (.rd 0x120#12) (issued .smul idle)) = true
    ∧ completes (exec (.poll 0x008#12 2#32) (issued .smul idle)) = true
    ∧ completes (exec (.wr 0x120#12 5#32) (issued .smul idle)) = true
    ∧ completes (exec (.wr 0x010#12 1#32) (issued .smul idle)) = true := by decide +kernel

/-- The last word of each kind of register, and both sides of READY. -/
theorem test_witness_RdOfWideRegisters :
    wordAt 0x040 15 = 0x07C#12 ∧ wordAt 0x140 7 = 0x15C#12 ∧ wordAt 0x220 7 = 0x23C#12 ∧ wordAt 0x260 7 = 0x27C#12
    ∧ idle.ready = true ∧ (State.powerOn 0 0 0).ready = false := by decide

/-- The ends of every range of the map and of every gap. -/
theorem test_witness_AccessesFaultExactlyWhereTheMapSays :
    (∀ o ∈ [0x001, 0x002, 0x003, 0xFFF], (BitVec.ofNat 12 o).toNat % 4 ≠ 0)
    ∧ (∀ o ∈ [0x018, 0x03C, 0x160, 0x17C, 0x1E0, 0x1FC, 0x280, 0xFFC],
        (BitVec.ofNat 12 o).toNat % 4 = 0 ∧ ¬ offsetListed (BitVec.ofNat 12 o))
    ∧ (∀ o ∈ [0x000, 0x00C, 0x180, 0x1DC, 0x200, 0x27C], offsetListed (BitVec.ofNat 12 o)
        ∧ (BitVec.ofNat 12 o = 0x000#12 ∨ BitVec.ofNat 12 o = 0x00C#12 ∨ 0x180 ≤ (BitVec.ofNat 12 o).toNat))
    ∧ ∀ o ∈ [0x004, 0x008, 0x010, 0x014, 0x040, 0x15C], offsetListed (BitVec.ofNat 12 o)
        ∧ BitVec.ofNat 12 o ≠ 0x000#12 ∧ BitVec.ofNat 12 o ≠ 0x00C#12 ∧ (BitVec.ofNat 12 o).toNat < 0x180 := by
  refine ⟨by decide, ?_, ?_, ?_⟩ <;> simp only [offsetListed] <;> decide

theorem test_witness_PollRepeatsUntilTheMaskIsSet :
    offsetListed 0x008#12 ∧ offsetListed 0x27C#12
    ∧ statusWord idle &&& 8#32 = 8#32 ∧ statusWord idle &&& 2#32 ≠ 2#32 := by
  simp only [offsetListed]
  decide

theorem test_witness_WaitCompletesOnDoneAndElseHangs :
    ({ idle with done := true }).done = true ∧ idle.done = false ∧ idle.running = none
    ∧ ({ idle with program := [0x800800000002#48] }).program[0]? = some 0x800800000002#48
    ∧ Turn.reset ∉ [Turn.host, .engine, .host] := by decide

theorem test_witness_WrToOperandsStoresTheWord :
    wordAt 0x040 0 = 0x040#12 ∧ wordAt 0x040 15 = 0x07C#12 ∧ wordAt 0x080 7 = 0x09C#12 ∧ wordAt 0x140 7 = 0x15C#12 := by
  decide

theorem test_witness_OperandWriteReadsBackAndTouchesNoOtherWord :
    (∀ o ∈ [0x040, 0x15C], operandOffset (BitVec.ofNat 12 o)
      ∧ completes (exec (.wr (BitVec.ofNat 12 o) 5#32) idle) = true)
    ∧ (offsetListed 0x044#12 ∧ ¬ (dconstOffset 0x044#12 ∧ idle.ready = false))
    ∧ offsetListed 0x220#12 ∧ ¬ (dconstOffset 0x220#12 ∧ idle.ready = false) := by
  simp only [operandOffset, offsetListed, dconstOffset]
  decide

theorem test_witness_WrToControlRegistersSetsTheirFields :
    (0x00000004#32).getLsbD 0 = false ∧ (0xFFFFFFF8#32).getLsbD 0 = false := by decide

theorem test_witness_CmdWriteIsAccepted : idle.acceptsCommand := ⟨rfl, rfl, rfl⟩

theorem test_witness_CmdWriteIsRejectedByPriority :
    ({ idle with err := true }).err = true
    ∧ ((State.powerOn 0 0 0).err = false ∧ (State.powerOn 0 0 0).ready = false)
    ∧ ((issued .smul idle).err = false ∧ (issued .smul idle).ready = true ∧ (issued .smul idle).running ≠ none)
    ∧ idle.acceptsCommand
    ∧ ∀ w ∈ [0, 9, 0x101, 0xFFFFFFFF], ∀ c : Command, BitVec.ofNat 32 w ≠ c.word := by
  refine ⟨rfl, ⟨rfl, rfl⟩, ⟨rfl, rfl, by decide⟩, ⟨rfl, rfl, rfl⟩, ?_⟩
  intro w hw c
  revert w
  cases c <;> decide

theorem test_witness_IrqFollowsDoneAndRej :
    completes (exec .reduce (issued .reduce idle)) = true
    ∧ completes (exec (.wr 0x008#12 0x22#32) { idle with done := true, rej := true, ie := true }) = true := by
  decide +kernel

/-- A busy core that meets the invariant, before its completion. -/
theorem test_witness_EveryStepKeepsTheInvariant :
    (issued .reduce { idle with turns := [.engine] }).Inv
    ∧ completes (step (issued .reduce { idle with turns := [.engine] })) = true := by
  refine ⟨⟨⟨by decide, by decide, by decide, by decide⟩, ⟨?_, .inr ⟨.reduce, rfl⟩⟩, ⟨by decide, by decide⟩,
    ⟨by decide, by decide⟩, ?_⟩, by decide +kernel⟩
  · intro r hr
    obtain rfl : (⟨.reduce, idle.capture⟩ : Running) = r := by injection hr
    exact ⟨rfl, rfl, rfl, rfl⟩
  · exact Nat.le_refl 0

theorem test_witness_ParametersNeverChange : completes (step { idle with turns := [.reset] }) = true := by decide

/-- A locked core, in an engine turn and in a host turn that is no soft reset. -/
theorem test_witness_OnlyAResetLiftsTheLock :
    ∀ turn ∈ [Turn.engine, .host],
      ({ idle with err := true, fatalCode := 1#8, turns := [turn] } : State).EngineInv
      ∧ completes (step { idle with err := true, fatalCode := 1#8, turns := [turn] }) = true
      ∧ ({ idle with err := true, fatalCode := 1#8, turns := [turn] } : State).takeTurn.1 ≠ .reset
      ∧ ¬ ({ idle with err := true, fatalCode := 1#8, turns := [turn] } : State).hostSoftResets := by
  intro turn ht
  refine ⟨⟨fun r hr => (by cases hr), .inl rfl⟩, ?_, ?_, fun ⟨w, v, hw, _⟩ => (by cases hw)⟩
  all_goals revert turn; decide

theorem test_witness_ResultsChangeOnlyAtACompletion :
    view (step (issued .reduce { idle with a := 1#512, turns := [.engine] })) (fun t => t.r.toNat) = some 1
    ∧ (issued .reduce { idle with a := 1#512, turns := [.engine] }).r.toNat = 0 := by decide +kernel

theorem test_witness_EveryAcceptedCommandEnds :
    (issued .smul idle).ready = true ∧ (issued .smul idle).running = some ⟨.smul, idle.capture⟩ := ⟨rfl, rfl⟩

theorem test_witness_TheEngineNeverFaults : (issued .smul idle).ready = true := rfl

end Sys2Proof.Tests
end

/-!
PROOFS of family 00: the curve constant (O13), the parameters and the program (O55), the invariant (O54). A step is
first taken apart into its effects (`step_effect`); both whole-machine statements are case analyses over these.
-/

namespace Sys2Proof.Machine

/-! ### Field elements -/

/-- Both coordinates are field elements (R3). -/
def Point.InField (p : Point) : Prop := p.x < fieldPrime ∧ p.y < fieldPrime

theorem identityPoint_inField : identityPoint.InField := by
  unfold Point.InField
  decide

theorem pointAdd_inField {p q r : Point} (h : pointAdd p q = .ok r) : r.InField := by
  by_cases hz : denominatorZero p q
  · simp [pointAdd_error hz] at h
  · obtain ⟨r', hr', hsum⟩ := pointAdd_ok hz
    obtain rfl : r' = r := by simpa [hr'] using h
    exact ⟨hsum.x_reduced, hsum.y_reduced⟩

theorem addIfOdd_inField {k : Nat} {result addend r : Point} (hres : result.InField)
    (h : addIfOdd k result addend = .ok r) : r.InField := by
  unfold addIfOdd at h
  split at h
  · exact pointAdd_inField h
  · injection h with h
    exact h ▸ hres

theorem scalarLoop_inField {fuel k : Nat} {result addend r : Point} (hres : result.InField)
    (h : scalarLoop fuel k result addend = .ok r) : r.InField := by
  induction fuel generalizing k result addend with
  | zero =>
    injection h with h
    exact h ▸ hres
  | succ n ih =>
    unfold scalarLoop at h
    split at h
    · injection h with h
      exact h ▸ hres
    · split at h
      · cases h
      · next hodd =>
        split at h
        · cases h
        · exact ih (addIfOdd_inField hres hodd) h

theorem scalarMul_inField {k : Nat} {p r : Point} (h : scalarMul k p = .ok r) : r.InField :=
  scalarLoop_inField identityPoint_inField h

theorem bits256_toNat_lt_fieldPrime {n : Nat} (h : n < fieldPrime) : (bits256 n).toNat < fieldPrime :=
  (Nat.mod_le n (2 ^ 256)).trans_lt h

/-! ### Decoded command words -/

theorem decodeOpcode_eq_ok {op : BitVec 8} {c : Command} (h : decodeOpcode op = .ok c) : op = c.opcode := by
  unfold decodeOpcode at h
  split at h
  case h_9 => cases h
  all_goals
    next hop =>
      injection h with h
      subst h
      exact BitVec.eq_of_toNat_eq hop

/-- A decoded command word is the command's one word (R55, R59). -/
theorem decodeCommand_eq_ok {w : Word} {c : Command} (h : decodeCommand w = .ok c) : w = c.word := by
  unfold decodeCommand at h
  split at h
  · next hrsv =>
    rw [Command.word, ← decodeOpcode_eq_ok h, ← hrsv, commandRsv, commandOpcode,
      BitVec.extractLsb'_append_extractLsb'_eq_extractLsb' (by rfl)]
    simp
  · cases h

/-! ### What a completion can do -/

/-- The effects of a completion (R107, R108): one or both result fields, the registers of CLAMP, or a fatal error. -/
inductive CompletionEffect (s : State) : State → Prop
  /-- REDUCE, INV and CHECK (R70, R71, R91). -/
  | value (x : Wide) (onCurve : Bool) : CompletionEffect s { s with r := x, onCurve := onCurve }.finish
  /-- PADD, PDBL, SMUL and DERIVE (R77, R78, R83, R92). -/
  | point (p : Point) (onCurve : Bool) (hp : p.InField) :
    CompletionEffect s { s with rx := bits256 p.x, ry := bits256 p.y, onCurve := onCurve }.finish
  /-- CLAMP (R89). -/
  | clamp (raw key : Wide) :
    CompletionEffect s { s with r := raw, k := key, seed := 0#256, seedValid := false }.finish
  /-- Any command's fatal error; only DERIVE's NOTONCURVE touches ONCURVE (R92, R108). -/
  | fatal (e : FatalCode) (onCurve : Bool) : CompletionEffect s ({ s with onCurve := onCurve }.fatal e)

theorem finishPoint_effect {s : State} {res : Except FatalCode Point} (h : ∀ p, res = .ok p → p.InField) :
    CompletionEffect s (s.finishPoint res) := by
  cases res with
  | ok p => exact .point p s.onCurve (h p rfl)
  | error e => exact .fatal e s.onCurve

section Completions
variable {s t : State}

theorem execReduce_next (h : execReduce s = .next t) :
    ∃ sn, s.running = some ⟨.reduce, sn⟩ ∧ CompletionEffect s t := by
  obtain ⟨sn, hrun, rfl⟩ := completing_next h
  exact ⟨sn, hrun, .value _ s.onCurve⟩

theorem execInv_next (h : execInv s = .next t) : ∃ sn, s.running = some ⟨.inv, sn⟩ ∧ CompletionEffect s t := by
  obtain ⟨sn, hrun, rfl⟩ := completing_next h
  refine ⟨sn, hrun, ?_⟩
  split
  · exact .value _ s.onCurve
  · exact .fatal _ s.onCurve

theorem execPadd_next (h : execPadd s = .next t) : ∃ sn, s.running = some ⟨.padd, sn⟩ ∧ CompletionEffect s t := by
  obtain ⟨sn, hrun, rfl⟩ := completing_next h
  exact ⟨sn, hrun, finishPoint_effect fun _ => pointAdd_inField⟩

theorem execPdbl_next (h : execPdbl s = .next t) : ∃ sn, s.running = some ⟨.pdbl, sn⟩ ∧ CompletionEffect s t := by
  obtain ⟨sn, hrun, rfl⟩ := completing_next h
  exact ⟨sn, hrun, finishPoint_effect fun _ => pointAdd_inField⟩

theorem execSmul_next (h : execSmul s = .next t) : ∃ sn, s.running = some ⟨.smul, sn⟩ ∧ CompletionEffect s t := by
  obtain ⟨sn, hrun, rfl⟩ := completing_next h
  exact ⟨sn, hrun, finishPoint_effect fun _ => scalarMul_inField⟩

theorem execClamp_next (h : execClamp s = .next t) :
    ∃ sn, s.running = some ⟨.clamp, sn⟩ ∧ CompletionEffect s t := by
  obtain ⟨sn, hrun, rfl⟩ := completing_next h
  refine ⟨sn, hrun, ?_⟩
  split
  · exact .fatal _ s.onCurve
  · exact .clamp _ _

theorem execDerive_next (h : execDerive s = .next t) :
    ∃ sn, s.running = some ⟨.derive, sn⟩ ∧ CompletionEffect s t := by
  obtain ⟨sn, hrun, rfl⟩ := completing_next h
  refine ⟨sn, hrun, ?_⟩
  split
  · exact .fatal _ s.onCurve
  · next p hp =>
    split
    · exact .point p true (scalarMul_inField hp)
    · exact .fatal .notOnCurve false

theorem execCheck_next (h : execCheck s = .next t) :
    ∃ sn, s.running = some ⟨.check, sn⟩ ∧ CompletionEffect s t := by
  obtain ⟨sn, hrun, rfl⟩ := completing_next h
  exact ⟨sn, hrun, .value _ _⟩

/-- Everything the completion step of a command can do (R107, R108). -/
theorem exec_command_next {c : Command} (h : exec c.toInstr s = .next t) :
    ∃ sn, s.running = some ⟨c, sn⟩ ∧ CompletionEffect s t := by
  cases c with
  | reduce => exact execReduce_next h
  | inv => exact execInv_next h
  | padd => exact execPadd_next h
  | pdbl => exact execPdbl_next h
  | smul => exact execSmul_next h
  | clamp => exact execClamp_next h
  | derive => exact execDerive_next h
  | check => exact execCheck_next h

end Completions

/-! ### What a write can do -/

/-- `s` with the registers the host stores into taken from `u`: CTRL, SEED_CTRL and the operands (R23, R27, R28). -/
def State.withStoredOf (s u : State) : State :=
  { s with
    vmodel := u.vmodel, ie := u.ie, seedValid := u.seedValid, seedFail := u.seedFail
    a := u.a, m := u.m, x1 := u.x1, y1 := u.y1, x2 := u.x2, y2 := u.y2, k := u.k, seed := u.seed }

/-- The effects of a write on the core (R99). -/
inductive WriteEffect (s : State) : State → Prop
  /-- A CMD write (R104). -/
  | issue (w : Word) : WriteEffect s (s.issue w)
  /-- A CTRL write with SRST = 1 (R126). -/
  | softReset : WriteEffect s s.coreReset
  /-- A STATUS write, which clears DONE and REJ as asked (R24). -/
  | acknowledge (clearDone clearRej : Bool) : WriteEffect s
      { s with
        done := s.done && !clearDone
        rej := s.rej && !clearRej
        rejCode := if clearRej then 0#8 else s.rejCode }
  /-- A write of CTRL with SRST = 0, of SEED_CTRL or of an operand word. -/
  | store (u : State) : WriteEffect s (s.withStoredOf u)

theorem WriteEffect.of_eq_withStoredOf {s t : State} (h : t = s.withStoredOf t) : WriteEffect s t := by
  rw [h]
  exact .store t

/-- Everything a write to a register word can do (R99). -/
theorem writeWord_effect {reg : RegName} {j : Nat} {v : Word} {s t : State} (h : writeWord reg j v s = some t) :
    WriteEffect s t := by
  cases reg
  case cmd =>
    injection h with h
    exact h ▸ .issue v
  case ctrl =>
    injection h with h
    subst h
    split
    · exact .softReset
    · exact .of_eq_withStoredOf rfl
  case status =>
    injection h with h
    exact h ▸ .acknowledge (v.getLsbD 1) (v.getLsbD 5)
  case seedCtrl | a | m | x1 | y1 | x2 | y2 | k | seed =>
    injection h with h
    subst h
    exact .of_eq_withStoredOf rfl
  case id | errcode | r | rx | ry | prime | dconst | gx | gy => cases h

/-! ### What a step can do -/

/-- The effects of a step on the state whose turn is used up (R95, R100, R107, R122, R123, R125). -/
inductive StepEffect (s : State) : State → Prop
  /-- The host after its last record, or the engine with nothing to do. -/
  | idle : StepEffect s s
  /-- A POLL that repeats its record. -/
  | pollAgain (reg : RegName) (j : Nat) : StepEffect s (s.returning reg j)
  /-- An RD, or a POLL that goes on. -/
  | read (reg : RegName) (j : Nat) (hpos : s.pos < s.program.length) : StepEffect s (s.returning reg j).advance
  /-- A WR. -/
  | write {u : State} (hpos : s.pos < s.program.length) (hu : WriteEffect s u) : StepEffect s u.advance
  /-- A cycle of the initialisation. -/
  | initialise (hready : s.ready = false) : StepEffect s s.initStep
  /-- The completion of the running command. -/
  | complete {r : Running} {t : State} (hready : s.ready = true) (hrun : s.running = some r)
    (ht : CompletionEffect s t) : StepEffect s t
  /-- The hardware reset input. -/
  | reset : StepEffect s s.coreReset

theorem hostTurn_effect {s t : State} (h : hostTurn s = .next t) : StepEffect s t := by
  obtain ⟨-, rfl⟩ | ⟨w, i, hw, hi, h⟩ := hostTurn_next h
  · exact .idle
  have hpos : s.pos < s.program.length := (List.getElem?_eq_some_iff.1 hw).1
  obtain rfl | rfl | rfl := decodeRecord_ok hi
  · obtain ⟨reg, j, -, rfl⟩ := execRd_next h
    exact .read reg j hpos
  · obtain ⟨reg, j, u, -, hu, rfl⟩ := execWr_next h
    exact .write hpos (writeWord_effect hu)
  · obtain ⟨reg, j, -, rfl | rfl⟩ := execPoll_next h
    · exact .pollAgain reg j
    · exact .read reg j hpos

theorem engineTurn_effect {s t : State} (h : engineTurn s = .next t) : StepEffect s t := by
  obtain ⟨hready, rfl⟩ | ⟨-, -, rfl⟩ | ⟨r, hready, hrun, h⟩ := engineTurn_next h
  · exact .initialise hready
  · exact .idle
  · obtain ⟨-, -, ht⟩ := exec_command_next h
    exact .complete hready hrun ht

/-- Everything a step can do (R48): it uses up a turn and has one of the effects. -/
theorem step_effect {s t : State} (h : step s = .next t) :
    ∃ ts n, StepEffect { s with turns := ts, tick := n } t := by
  obtain ⟨ts, n, hturn⟩ := s.takeTurn_frame
  refine ⟨ts, n, hturn ▸ ?_⟩
  obtain ⟨-, h⟩ | ⟨-, h⟩ | ⟨-, rfl⟩ := step_cases h
  · exact hostTurn_effect h
  · exact engineTurn_effect h
  · exact .reset

/-! ### The parameters, the program and the host's position -/

/-- Nothing of the parameters, the host program and the host's position changes. -/
structure SamePlace (s t : State) : Prop where
  params : SameParams s t
  program : t.program = s.program
  pos : t.pos = s.pos

/-- The parameters and the program stay, and the host stays or goes on past a record of its program. -/
structure HostFrame (s t : State) : Prop where
  params : SameParams s t
  program : t.program = s.program
  pos : t.pos = s.pos ∨ (s.pos < s.program.length ∧ t.pos = s.pos + 1)

theorem SamePlace.hostFrame {s t : State} (h : SamePlace s t) : HostFrame s t := ⟨h.params, h.program, .inl h.pos⟩

theorem SamePlace.hostFrame_advance {s t : State} (h : SamePlace s t) (hpos : s.pos < s.program.length) :
    HostFrame s t.advance := ⟨h.params, h.program, .inr ⟨hpos, congrArg (· + 1) h.pos⟩⟩

theorem State.issue_samePlace (s : State) (w : Word) : SamePlace s (s.issue w) := by
  obtain ⟨c, -, -, -, -, h⟩ | ⟨c, h⟩ := s.issue_cases w <;> rw [h]
  · exact ⟨⟨rfl, rfl, rfl⟩, rfl, rfl⟩
  · exact ⟨⟨rfl, rfl, rfl⟩, rfl, rfl⟩

theorem CompletionEffect.samePlace {s t : State} (h : CompletionEffect s t) : SamePlace s t := by
  cases h <;> exact ⟨⟨rfl, rfl, rfl⟩, rfl, rfl⟩

theorem WriteEffect.samePlace {s t : State} (h : WriteEffect s t) : SamePlace s t := by
  cases h with
  | issue w => exact s.issue_samePlace w
  | softReset | acknowledge | store => exact ⟨⟨rfl, rfl, rfl⟩, rfl, rfl⟩

theorem StepEffect.hostFrame {s t : State} (h : StepEffect s t) : HostFrame s t := by
  cases h with
  | idle | pollAgain | initialise | reset => exact ⟨⟨rfl, rfl, rfl⟩, rfl, .inl rfl⟩
  | read reg j hpos => exact ⟨⟨rfl, rfl, rfl⟩, rfl, .inr ⟨hpos, rfl⟩⟩
  | write hpos hu => exact hu.samePlace.hostFrame_advance hpos
  | complete _ _ ht => exact ht.samePlace.hostFrame

/-- Every step leaves the parameters and the program, and keeps the host at a record or moves it past one. -/
theorem step_hostFrame {s t : State} (h : step s = .next t) : HostFrame s t := by
  obtain ⟨ts, n, he⟩ := step_effect h
  exact ⟨he.hostFrame.params, he.hostFrame.program, he.hostFrame.pos⟩

theorem HostFrame.hostInv {s t : State} (h : HostFrame s t) (hs : s.HostInv) : t.HostInv := by
  unfold State.HostInv at *
  rw [h.program]
  obtain hpos | ⟨hlt, hpos⟩ := h.pos <;> omega

/-! ### The invariant of the core -/

/-- The part of the invariant that speaks of the core alone. Stores, reads, turns and the host's position are outside
it, so that it passes through them by its fields. -/
structure State.CoreInv (s : State) : Prop where
  codes : s.CodesInv
  engine : s.EngineInv
  afterReset : s.ResetInv
  results : s.ResultInv

theorem State.Inv.coreInv {s : State} (h : s.Inv) : s.CoreInv := ⟨h.codes, h.engine, h.afterReset, h.results⟩

theorem FatalCode.code_ne_zero (e : FatalCode) : e.code ≠ 0#8 := by cases e <;> decide

theorem FatalCode.code_le_four (e : FatalCode) : e.code.toNat ≤ 4 := by cases e <;> decide

theorem RejectCode.code_ne_zero (c : RejectCode) : c.code ≠ 0#8 := by cases c <;> decide

theorem RejectCode.code_le_four (c : RejectCode) : c.code.toNat ≤ 4 := by cases c <;> decide

section
variable {s : State}

/-- In a ready core nothing of `ResetInv` is left but the count at 0. -/
theorem State.ResetInv.of_ready (hready : s.ready = true) (hleft : s.initLeft = 0) : s.ResetInv :=
  ⟨fun _ => hleft, fun h => absurd h (by simp [hready])⟩

/-- With no command running only CMD is left of `EngineInv`. -/
theorem State.EngineInv.of_idle (hrun : s.running = none) (hcmd : s.cmd = 0#32 ∨ ∃ c : Command, s.cmd = c.word) :
    s.EngineInv :=
  ⟨fun r hr => absurd hr (by simp [hrun]), hcmd⟩

theorem State.CoreInv.initLeft_eq_zero (h : s.CoreInv) (hready : s.ready = true) : s.initLeft = 0 :=
  h.afterReset.left hready

theorem State.CoreInv.cmd_legal (h : s.CoreInv) : s.cmd = 0#32 ∨ ∃ c : Command, s.cmd = c.word := h.engine.right

theorem State.CoreInv.finish (h : s.CoreInv) (hready : s.ready = true) : s.finish.CoreInv where
  codes := h.codes
  engine := .of_idle rfl h.cmd_legal
  afterReset := .of_ready hready (h.initLeft_eq_zero hready)
  results := h.results

theorem State.CoreInv.fatal (h : s.CoreInv) (hready : s.ready = true) (e : FatalCode) : (s.fatal e).CoreInv where
  codes := by
    obtain ⟨-, -, hrej, hrejLe⟩ := h.codes
    exact ⟨by simp [e.code_ne_zero], e.code_le_four, hrej, hrejLe⟩
  engine := .of_idle rfl h.cmd_legal
  afterReset := .of_ready hready (h.initLeft_eq_zero hready)
  results := h.results

/-- In a ready core ONCURVE and R are free, and RX and RY may take any field elements. -/
theorem State.CoreInv.setResults (h : s.CoreInv) (hready : s.ready = true) (r : Wide) {rx ry : Wide}
    (hrx : rx.toNat < fieldPrime) (hry : ry.toNat < fieldPrime) (onCurve : Bool) :
    { s with r := r, rx := rx, ry := ry, onCurve := onCurve }.CoreInv where
  codes := h.codes
  engine := h.engine
  afterReset := .of_ready hready (h.initLeft_eq_zero hready)
  results := ⟨hrx, hry⟩

theorem State.CoreInv.accept (h : s.CoreInv) (hready : s.ready = true) (herr : s.err = false) (c : Command) :
    (s.accept c c.word).CoreInv where
  codes := h.codes
  engine := by
    refine ⟨fun r hr => ?_, .inr ⟨c, rfl⟩⟩
    obtain rfl : ⟨c, s.capture⟩ = r := by simpa using hr
    exact ⟨hready, herr, rfl, rfl⟩
  afterReset := .of_ready hready (h.initLeft_eq_zero hready)
  results := h.results

theorem State.CoreInv.reject (h : s.CoreInv) (c : RejectCode) : (s.reject c).CoreInv where
  codes := by
    obtain ⟨hfatal, hfatalLe, -, -⟩ := h.codes
    exact ⟨hfatal, hfatalLe, by simp [c.code_ne_zero], c.code_le_four⟩
  engine := h.engine
  afterReset := h.afterReset
  results := h.results

theorem State.CoreInv.issue (h : s.CoreInv) (w : Word) : (s.issue w).CoreInv := by
  obtain ⟨c, herr, hready, -, hdec, hissue⟩ | ⟨c, hissue⟩ := s.issue_cases w <;> rw [hissue]
  · obtain rfl := decodeCommand_eq_ok hdec
    exact h.accept hready herr c
  · exact h.reject c

theorem State.coreReset_coreInv (s : State) : s.coreReset.CoreInv where
  codes := by simp [State.CodesInv]
  engine := .of_idle rfl (.inl rfl)
  afterReset := by simp [State.ResetInv]
  results := by simp [State.ResultInv, fieldPrime]

/-- The countdown is at 0 in the step that raises READY, and no command can be running before it (R125). -/
theorem State.CoreInv.initStep (h : s.CoreInv) (hready : s.ready = false) : s.initStep.CoreInv where
  codes := h.codes
  engine := .of_idle (h.afterReset.right hready).left h.cmd_legal
  afterReset := ⟨fun hup => Nat.sub_eq_zero_of_le (of_decide_eq_true hup), fun _ => h.afterReset.right hready⟩
  results := h.results

theorem State.CoreInv.acknowledge (h : s.CoreInv) (clearDone clearRej : Bool) :
    { s with
      done := s.done && !clearDone
      rej := s.rej && !clearRej
      rejCode := if clearRej then 0#8 else s.rejCode }.CoreInv where
  codes := by
    obtain ⟨hfatal, hfatalLe, hrej, hrejLe⟩ := h.codes
    refine ⟨hfatal, hfatalLe, ?_⟩
    cases clearRej
    · exact ⟨by simpa using hrej, hrejLe⟩
    · simp
  engine := by
    obtain ⟨hrun, hcmd⟩ := h.engine
    refine ⟨fun r hr => ?_, hcmd⟩
    obtain ⟨hready, herr, hdone, hword⟩ := hrun r hr
    exact ⟨hready, herr, by simp [hdone], hword⟩
  afterReset := by
    obtain ⟨hleft, hdown⟩ := h.afterReset
    refine ⟨hleft, fun hready => ?_⟩
    obtain ⟨hrun, hdone, hrest⟩ := hdown hready
    exact ⟨hrun, by simp [hdone], hrest⟩
  results := h.results

end

theorem CompletionEffect.coreInv {s t : State} (h : CompletionEffect s t) (hs : s.CoreInv) (hready : s.ready = true) :
    t.CoreInv := by
  obtain ⟨hrx, hry⟩ := hs.results
  cases h with
  | value x onCurve => exact (hs.setResults hready x hrx hry onCurve).finish hready
  | point p onCurve hp =>
    exact (hs.setResults hready s.r (bits256_toNat_lt_fieldPrime hp.1) (bits256_toNat_lt_fieldPrime hp.2)
      onCurve).finish hready
  | clamp raw key =>
    obtain ⟨hcodes, hengine, hreset, hresults⟩ := (hs.setResults hready raw hrx hry s.onCurve).finish hready
    exact ⟨hcodes, hengine, hreset, hresults⟩
  | fatal e onCurve => exact (hs.setResults hready s.r hrx hry onCurve).fatal hready e

theorem WriteEffect.coreInv {s t : State} (h : WriteEffect s t) (hs : s.CoreInv) : t.CoreInv := by
  cases h with
  | issue w => exact hs.issue w
  | softReset => exact s.coreReset_coreInv
  | acknowledge clearDone clearRej => exact hs.acknowledge clearDone clearRej
  | store u => exact ⟨hs.codes, hs.engine, hs.afterReset, hs.results⟩

theorem StepEffect.coreInv {s t : State} (h : StepEffect s t) (hs : s.CoreInv) : t.CoreInv := by
  cases h with
  | idle => exact hs
  | pollAgain | read => exact ⟨hs.codes, hs.engine, hs.afterReset, hs.results⟩
  | write _ hu =>
    obtain ⟨hcodes, hengine, hreset, hresults⟩ := hu.coreInv hs
    exact ⟨hcodes, hengine, hreset, hresults⟩
  | initialise hready => exact hs.initStep hready
  | complete hready _ ht => exact ht.coreInv hs hready
  | reset => exact s.coreReset_coreInv

theorem step_coreInv {s t : State} (h : step s = .next t) (hs : s.CoreInv) : t.CoreInv := by
  obtain ⟨ts, n, he⟩ := step_effect h
  exact he.coreInv ⟨hs.codes, hs.engine, hs.afterReset, hs.results⟩

/-! ### The statements -/

/-- Settles O54: the invariant of the core passes through every effect of a step, the host's by the frame. -/
theorem everyStepKeepsTheInvariant : Obligations.EveryStepKeepsTheInvariant := by
  intro s t hs h
  obtain ⟨hcodes, hengine, hreset, hresults⟩ := step_coreInv h hs.coreInv
  exact ⟨hcodes, hengine, hreset, hresults, (step_hostFrame h).hostInv hs.host⟩

/-- Settles O55, by the frame of a step. -/
theorem parametersNeverChange : Obligations.ParametersNeverChange := fun _ _ h =>
  ⟨(step_hostFrame h).params, (step_hostFrame h).program⟩

/-- Settles O13, by evaluation at the value of D. -/
theorem curveConstantIsTheQuotient : Obligations.CurveConstantIsTheQuotient := by
  unfold Obligations.CurveConstantIsTheQuotient curveD
  norm_num

end Sys2Proof.Machine

/-!
PROOFS of family 10: the registers and their accesses (O9, O42, O43, O47, O49, O50), the statements of a host program
(O60, O6), the completions of commands (O39, O40, O52), and what keeps a running command and the results (O41, O57).
An access is first taken to the word it reaches, and a completion to the result it writes, which takes no state.
-/

namespace Sys2Proof.Machine

/-! ### One access to a mapped word -/

theorem exec_rd_of_locate {off : Offset} {reg : RegName} {j : Nat} (h : locate off = .ok (reg, j)) (s : State) :
    exec (.rd off) s = .next (s.returning reg j).advance := by
  simp only [exec, execRd, busRead, h]

theorem exec_wr_of_locate {off : Offset} {reg : RegName} {j : Nat} {v : Word} {s t : State}
    (h : locate off = .ok (reg, j)) (hw : writeWord reg j v s = some t) :
    exec (.wr off v) s = .next t.advance := by
  simp only [exec, execWr, busWrite, h, hw]

/-- Word j of a row is what an access to its offset reaches (R42). -/
theorem locate_wordAt {reg : RegName} {base words j : Nat} (hrow : ⟨reg, base, words⟩ ∈ registerMap)
    (hj : j < words) : locate (wordAt base j) = .ok (reg, j) :=
  locate_mapped _ hrow j hj

theorem readsFree_of_ne {reg : RegName} (h : reg ≠ .dconst) (s : State) : readsFree s reg = false := by
  simp [readsFree, h]

theorem readsFree_of_ready {s : State} (h : s.ready = true) (reg : RegName) : readsFree s reg = false := by
  simp [readsFree, h]

/-- A read that uses up no free value changes the data returned alone (R97). -/
theorem State.returning_of_not_free {s : State} {reg : RegName} (h : readsFree s reg = false) (j : Nat) :
    s.returning reg j = { s with rdata := readWord s reg j } := by
  simp [State.returning, h]

theorem exec_rd_wordAt {reg : RegName} {base words j : Nat} {s : State} (hrow : ⟨reg, base, words⟩ ∈ registerMap)
    (hj : j < words) (hfree : readsFree s reg = false) :
    exec (.rd (wordAt base j)) s = .next { s with rdata := readWord s reg j, pos := s.pos + 1 } := by
  rw [exec_rd_of_locate (locate_wordAt hrow hj), State.returning_of_not_free hfree]
  rfl

/-! ### Control registers -/

theorem eq_ofNat_of_toNat_eq {n k : Nat} {x : BitVec n} (h : x.toNat = k) : x = BitVec.ofNat n k := by
  rw [← h, BitVec.ofNat_toNat, BitVec.setWidth_eq]

theorem toNat_append_bit {n : Nat} (x : BitVec n) (b : Bool) : (x ++ bit b).toNat = 2 * x.toNat + b.toNat := by
  rw [BitVec.toNat_append, bit, BitVec.toNat_ofBool, ← Nat.shiftLeft_add_eq_or_of_lt b.toNat_lt, Nat.shiftLeft_eq]
  omega

theorem ctrlWord_eq (s : State) : ctrlWord s = BitVec.ofNat 32 (2 * s.vmodel.toNat + 4 * s.ie.toNat) := by
  apply eq_ofNat_of_toNat_eq
  rw [ctrlWord, show 0#1 = bit false from rfl]
  simp only [toNat_append_bit, BitVec.toNat_ofNat, Bool.toNat_false]
  omega

theorem statusWord_eq (s : State) : statusWord s = BitVec.ofNat 32
    (s.running.isSome.toNat + 2 * s.done.toNat + 4 * s.err.toNat + 8 * s.ready.toNat + 16 * s.onCurve.toNat
      + 32 * s.rej.toNat) := by
  apply eq_ofNat_of_toNat_eq
  simp only [statusWord, toNat_append_bit, BitVec.toNat_ofNat, State.busy]
  omega

theorem errcodeWord_eq (s : State) :
    errcodeWord s = BitVec.ofNat 32 (s.fatalCode.toNat + 256 * s.rejCode.toNat) := by
  apply eq_ofNat_of_toNat_eq
  rw [errcodeWord, BitVec.toNat_append, ← Nat.shiftLeft_add_eq_or_of_lt s.fatalCode.isLt, BitVec.toNat_append,
    Nat.shiftLeft_eq, BitVec.toNat_ofNat, Nat.zero_mod, Nat.zero_shiftLeft, Nat.zero_or]
  omega

theorem seedCtrlWord_eq (s : State) :
    seedCtrlWord s = BitVec.ofNat 32 (s.seedValid.toNat + 2 * s.seedFail.toNat) := by
  apply eq_ofNat_of_toNat_eq
  simp only [seedCtrlWord, toNat_append_bit, BitVec.toNat_ofNat]
  omega

theorem rdAnswers_of_word {reg : RegName} {base : Nat} {value : State → Word} (hrow : ⟨reg, base, 1⟩ ∈ registerMap)
    (hreg : reg ≠ .dconst) (hvalue : ∀ s, readWord s reg 0 = value s) : RdAnswers base 1 value := by
  intro s j hj
  obtain rfl : j = 0 := by omega
  rw [exec_rd_wordAt hrow hj (readsFree_of_ne hreg s), hvalue, Nat.mul_zero, BitVec.extractLsb'_eq_self]

/-- Settles O42: each control word is its fields at their bit positions. -/
theorem rdOfControlRegisters : Obligations.RdOfControlRegisters :=
  ⟨rdAnswers_of_word (reg := .id) (by decide) (by decide) fun _ => rfl,
   rdAnswers_of_word (reg := .ctrl) (by decide) (by decide) ctrlWord_eq,
   rdAnswers_of_word (reg := .status) (by decide) (by decide) statusWord_eq,
   rdAnswers_of_word (reg := .errcode) (by decide) (by decide) errcodeWord_eq,
   rdAnswers_of_word (reg := .cmd) (by decide) (by decide) fun _ => rfl,
   rdAnswers_of_word (reg := .seedCtrl) (by decide) (by decide) seedCtrlWord_eq⟩

theorem exec_wr_ctrl {v : Word} (h : v.getLsbD 0 = false) (s : State) :
    exec (.wr 0x004#12 v) s = .next { s with vmodel := v.getLsbD 1, ie := v.getLsbD 2, pos := s.pos + 1 } := by
  have hw : writeWord .ctrl 0 v s = some { s with vmodel := v.getLsbD 1, ie := v.getLsbD 2 } := by
    rw [writeWord, h]
    rfl
  exact exec_wr_of_locate (by decide) hw

theorem exec_wr_status (v : Word) (s : State) :
    exec (.wr 0x008#12 v) s = .next { s with
      done := if v.getLsbD 1 then false else s.done
      rej := if v.getLsbD 5 then false else s.rej
      rejCode := if v.getLsbD 5 then 0#8 else s.rejCode
      pos := s.pos + 1 } := by
  rw [exec_wr_of_locate (reg := .status) (j := 0) (by decide) rfl, State.advance]
  cases v.getLsbD 1 <;> cases v.getLsbD 5 <;> simp

theorem exec_wr_seedCtrl (v : Word) (s : State) :
    exec (.wr 0x014#12 v) s
      = .next { s with seedValid := v.getLsbD 0, seedFail := v.getLsbD 1, pos := s.pos + 1 } :=
  exec_wr_of_locate (reg := .seedCtrl) (j := 0) (by decide) rfl

/-- Settles O49, by the write of each of the three registers. -/
theorem wrToControlRegistersSetsTheirFields : Obligations.WrToControlRegistersSetsTheirFields :=
  fun s v => ⟨fun h => exec_wr_ctrl h s, exec_wr_status v s, exec_wr_seedCtrl v s⟩

theorem decodeCommand_word (c : Command) : decodeCommand c.word = .ok c := by
  cases c <;> decide

theorem State.issue_of_accepts {s : State} {c : Command} {w : Word} (h : s.acceptsCommand)
    (hw : decodeCommand w = .ok c) : s.issue w = s.accept c w := by
  obtain ⟨hready, herr, hidle⟩ := h
  simp [State.issue, hready, herr, State.busy, hidle, hw]

/-- Settles O50: the CMD write issues the word, and the core accepts it. -/
theorem cmdWriteIsAccepted : Obligations.CmdWriteIsAccepted := by
  intro s c h
  rw [exec_wr_of_locate (reg := .cmd) (j := 0) (by decide) rfl, State.issue_of_accepts h (decodeCommand_word c)]
  rfl

/-! ### Reads of wide registers -/

theorem rdAnswers_of_wide {reg : RegName} {base words n : Nat} {value : State → BitVec n}
    (hrow : ⟨reg, base, words⟩ ∈ registerMap) (hreg : reg ≠ .dconst)
    (hvalue : ∀ s j, readWord s reg j = wideWord (value s) j) : RdAnswers base words value := by
  intro s j hj
  rw [exec_rd_wordAt hrow hj (readsFree_of_ne hreg s), hvalue, wideWord]

theorem readWord_prime (s : State) (j : Nat) :
    readWord s .prime j = wideWord (BitVec.ofNat 256 (2 ^ 255 - 19)) j := by
  rw [readWord, show fieldPrime = 2 ^ 255 - 19 by norm_num [fieldPrime]]

theorem readWord_dconst_of_ready {s : State} (h : s.ready = true) (j : Nat) :
    readWord s .dconst j = wideWord (BitVec.ofNat 256 curveD) j := by
  simp [readWord, h]

/-- Settles O43, register by register; DCONST has the two cases of READY. -/
theorem rdOfWideRegisters : Obligations.RdOfWideRegisters := by
  refine ⟨rdAnswers_of_wide (reg := .a) (by decide) (by decide) fun _ _ => rfl,
    rdAnswers_of_wide (reg := .m) (by decide) (by decide) fun _ _ => rfl,
    rdAnswers_of_wide (reg := .x1) (by decide) (by decide) fun _ _ => rfl,
    rdAnswers_of_wide (reg := .y1) (by decide) (by decide) fun _ _ => rfl,
    rdAnswers_of_wide (reg := .x2) (by decide) (by decide) fun _ _ => rfl,
    rdAnswers_of_wide (reg := .y2) (by decide) (by decide) fun _ _ => rfl,
    rdAnswers_of_wide (reg := .k) (by decide) (by decide) fun _ _ => rfl,
    rdAnswers_of_wide (reg := .seed) (by decide) (by decide) fun _ _ => rfl,
    rdAnswers_of_wide (reg := .r) (by decide) (by decide) fun _ _ => rfl,
    rdAnswers_of_wide (reg := .rx) (by decide) (by decide) fun _ _ => rfl,
    rdAnswers_of_wide (reg := .ry) (by decide) (by decide) fun _ _ => rfl,
    rdAnswers_of_wide (reg := .prime) (by decide) (by decide) readWord_prime,
    rdAnswers_of_wide (reg := .gx) (by decide) (by decide) fun _ _ => rfl,
    rdAnswers_of_wide (reg := .gy) (by decide) (by decide) fun _ _ => rfl,
    fun s j hj => ⟨fun hready => ?_, fun _ => ?_⟩⟩
  · rw [exec_rd_wordAt (reg := .dconst) (words := 8) (by decide) hj (readsFree_of_ready hready _),
      readWord_dconst_of_ready hready, wideWord]
  · exact ⟨_, _, exec_rd_of_locate (locate_wordAt (reg := .dconst) (words := 8) (by decide) hj) s⟩

theorem wideWord_zero (n j : Nat) : wideWord 0#n j = 0#32 := by
  simp [wideWord]

/-- Settles O9, by evaluation of each field and control word; the words of the wide registers are those of 0. -/
theorem resetValuesOfEveryRegister : Obligations.ResetValuesOfEveryRegister := by
  refine ⟨⟨rfl, rfl, rfl, rfl, rfl, rfl, rfl, rfl, rfl, rfl, rfl, rfl, rfl, rfl, rfl, rfl, rfl, rfl, rfl, rfl, rfl, rfl,
    rfl, rfl, rfl⟩, rfl, rfl, rfl, rfl, rfl, rfl, rfl, rfl, fun j _ => wideWord_zero 512 j, fun reg hreg j _ => ?_,
    fun j _ => readWord_prime _ j, fun _ _ => rfl, fun _ _ => rfl, rfl⟩
  simp only [List.mem_cons, List.not_mem_nil, or_false] at hreg
  obtain rfl | rfl | rfl | rfl | rfl | rfl | rfl | rfl | rfl | rfl := hreg <;> exact wideWord_zero 256 j

/-! ### Operand registers -/

/-- `s` with the host at record `p` and the turns `ts` settled. -/
def State.hostAt (s : State) (p : Nat) (ts : List Turn) : State := { s with pos := p, turns := ts }

/-- `reg` is the operand register at `base` that `get` reads and `set` replaces: wherever the host is, a write to word j
replaces that word of the register's value (R42, R99). -/
structure IsOperand (reg : RegName) (base words : Nat) {n : Nat} (get : State → BitVec n)
    (set : BitVec n → State → State) : Prop where
  mapped : ⟨reg, base, words⟩ ∈ registerMap
  width : n = 32 * words
  set_get : ∀ s, set (get s) s = s
  set_frame : ∀ x s, (set x s).program = s.program ∧ (set x s).turns = s.turns
  write : ∀ x s j v p ts,
    writeWord reg j v ((set x s).hostAt p ts) = some ((set (setWideWord x j v) s).hostAt p ts)

theorem isOperand_a : IsOperand .a 0x040 16 State.a fun x s => { s with a := x } :=
  ⟨by decide, rfl, fun _ => rfl, fun _ _ => ⟨rfl, rfl⟩, fun _ _ _ _ _ _ => rfl⟩

theorem isOperand_m : IsOperand .m 0x080 8 State.m fun x s => { s with m := x } :=
  ⟨by decide, rfl, fun _ => rfl, fun _ _ => ⟨rfl, rfl⟩, fun _ _ _ _ _ _ => rfl⟩

theorem isOperand_x1 : IsOperand .x1 0x0A0 8 State.x1 fun x s => { s with x1 := x } :=
  ⟨by decide, rfl, fun _ => rfl, fun _ _ => ⟨rfl, rfl⟩, fun _ _ _ _ _ _ => rfl⟩

theorem isOperand_y1 : IsOperand .y1 0x0C0 8 State.y1 fun x s => { s with y1 := x } :=
  ⟨by decide, rfl, fun _ => rfl, fun _ _ => ⟨rfl, rfl⟩, fun _ _ _ _ _ _ => rfl⟩

theorem isOperand_x2 : IsOperand .x2 0x0E0 8 State.x2 fun x s => { s with x2 := x } :=
  ⟨by decide, rfl, fun _ => rfl, fun _ _ => ⟨rfl, rfl⟩, fun _ _ _ _ _ _ => rfl⟩

theorem isOperand_y2 : IsOperand .y2 0x100 8 State.y2 fun x s => { s with y2 := x } :=
  ⟨by decide, rfl, fun _ => rfl, fun _ _ => ⟨rfl, rfl⟩, fun _ _ _ _ _ _ => rfl⟩

theorem isOperand_k : IsOperand .k 0x120 8 State.k fun x s => { s with k := x } :=
  ⟨by decide, rfl, fun _ => rfl, fun _ _ => ⟨rfl, rfl⟩, fun _ _ _ _ _ _ => rfl⟩

theorem isOperand_seed : IsOperand .seed 0x140 8 State.seed fun x s => { s with seed := x } :=
  ⟨by decide, rfl, fun _ => rfl, fun _ _ => ⟨rfl, rfl⟩, fun _ _ _ _ _ _ => rfl⟩

section
variable {reg : RegName} {base words n : Nat} {get : State → BitVec n} {set : BitVec n → State → State}

theorem IsOperand.exec_wr (h : IsOperand reg base words get set) {j : Nat} (hj : j < words) (v : Word) (x : BitVec n)
    (s : State) (p : Nat) (ts : List Turn) : exec (.wr (wordAt base j) v) ((set x s).hostAt p ts)
      = .next ((set (setWideWord x j v) s).hostAt (p + 1) ts) :=
  exec_wr_of_locate (locate_wordAt h.mapped hj) (h.write x s j v p ts)

theorem IsOperand.wrStores (h : IsOperand reg base words get set) : WrStores base words get set := by
  intro s j v hj
  have hwidth := h.width
  refine ⟨setWideWord (get s) j v, ?_, wideWord_setWideWord_self _ _ _ (by omega),
    fun i hi hij => wideWord_setWideWord_other _ _ _ _ hij (by omega)⟩
  have hexec := h.exec_wr hj v (get s) s s.pos s.turns
  rw [h.set_get, show s.hostAt s.pos s.turns = s from rfl] at hexec
  rw [hexec, ← (h.set_frame (setWideWord (get s) j v) s).2]
  rfl

end

/-- Settles O47: the eight registers are operands. -/
theorem wrToOperandsStoresTheWord : Obligations.WrToOperandsStoresTheWord :=
  ⟨isOperand_a.wrStores, isOperand_m.wrStores, isOperand_x1.wrStores, isOperand_y1.wrStores, isOperand_x2.wrStores,
    isOperand_y2.wrStores, isOperand_k.wrStores, isOperand_seed.wrStores⟩

/-! ### Statements of a host program -/

theorem wordOffset_of_lt {row : MapRow} (h : row ∈ registerMap) {j : Nat} (hj : j < row.words) :
    wordOffset row.reg j = some (wordAt row.base j) := by
  rw [wordOffset_mapped h, if_pos hj]

theorem wordOffset_of_le {row : MapRow} (h : row ∈ registerMap) {j : Nat} (hj : row.words ≤ j) :
    wordOffset row.reg j = none := by
  rw [wordOffset_mapped h, if_neg (by omega)]

theorem value32_of_mem {v : Int} (hlo : -2 ^ 31 ≤ v) (hhi : v < 2 ^ 32) : value32 v = some (BitVec.ofInt 32 v) :=
  if_pos ⟨hlo, hhi⟩

theorem value32_of_not_mem {v : Int} (h : v < -2 ^ 31 ∨ 2 ^ 32 ≤ v) : value32 v = none :=
  if_neg (by omega)

theorem expand_rd (reg : RegName) (j : Nat) : expand (.rd reg j) = (wordOffset reg j).map fun off => [.rd off] := by
  rw [expand]
  cases wordOffset reg j <;> rfl

theorem expand_wr (reg : RegName) (j : Nat) (v : Int) :
    expand (.wr reg j v) = (wordOffset reg j).bind fun off => (value32 v).map fun w => [.wr off w] := by
  rw [expand]
  cases wordOffset reg j <;> cases value32 v <;> rfl

theorem expand_poll (reg : RegName) (j : Nat) (mask : Int) :
    expand (.poll reg j mask) = (wordOffset reg j).bind fun off => (value32 mask).map fun w => [.poll off w] := by
  rw [expand]
  cases wordOffset reg j <;> cases value32 mask <;> rfl

/-- More words than a register has are not written (log 19). -/
theorem writeWords_of_short {row : MapRow} (h : row ∈ registerMap) {n : Nat} (v : BitVec n) {k : Nat}
    (hk : row.words ≤ k) : writeWords row.reg v (k + 1) = none := by
  rw [writeWords, wordOffset_of_le h hk]
  cases writeWords row.reg v k <;> rfl

/-- More words than a register has are not read (log 19). -/
theorem readWords_of_short {row : MapRow} (h : row ∈ registerMap) {k : Nat} (hk : row.words ≤ k) :
    readWords row.reg (k + 1) = none := by
  rw [readWords, wordOffset_of_le h hk]
  cases readWords row.reg k <;> rfl

theorem expand_wrSeed {bytes : List (BitVec 8)} (h : bytes.length = 32) :
    expand (.wrSeed bytes) = expand (.wr256 .seed (seedValue bytes)) := by
  simp [expand, h]

/-- Settles O60: an offset, a value and the number of words are each given or refused. -/
theorem statementsExpandToTheirTransactions : Obligations.StatementsExpandToTheirTransactions := by
  refine ⟨fun row hrow j v =>
      ⟨fun hj => ⟨?_, fun hlo hhi => ?_⟩, fun hv => ?_, fun hj => ?_, fun hk => ?_, fun hk => ?_⟩,
    fun v => writeWords_mapped (row := ⟨.a, 0x040, 16⟩) (by decide) (BitVec.ofInt 512 v) le_rfl,
    fun bytes => ⟨expand_wrSeed, fun h => if_neg h⟩⟩
  · simp [expand_rd, wordOffset_of_lt hrow hj]
  · simp [expand_wr, expand_poll, wordOffset_of_lt hrow hj, value32_of_mem hlo hhi]
  · simp [expand_wr, expand_poll, value32_of_not_mem hv]
  · simp [expand_rd, expand_wr, expand_poll, wordOffset_of_le hrow hj]
  · exact ⟨writeWords_mapped hrow _ hk, readWords_mapped hrow hk⟩
  · exact ⟨writeWords_of_short hrow _ (Nat.le_of_lt_succ hk), readWords_of_short hrow (Nat.le_of_lt_succ hk)⟩

/-! ### Records -/

/-- The record that `assemble` writes for a transaction (R56). -/
def recordOf (i : Instr) : Record := BitVec.ofNat 48 (encode i).word

theorem assemble_singleton {st : Stmt} {is : List Instr} (h : expand st = some is) :
    assemble [st] = some (is.map recordOf) := by
  simp [assemble, h, recordOf]

section
variable (kind : BitVec 2) (off : Offset) (data : Word)

@[simp] theorem mkRecord_kind : Record.kind (mkRecord kind off data) = kind := by
  rw [Record.kind, mkRecord, BitVec.extractLsb'_append_eq_of_le (by decide),
    BitVec.extractLsb'_append_eq_of_le (by decide)]
  exact BitVec.extractLsb'_append_eq_left

@[simp] theorem mkRecord_rsv : Record.rsv (mkRecord kind off data) = 0#2 := by
  rw [Record.rsv, mkRecord, BitVec.extractLsb'_append_eq_of_le (by decide),
    BitVec.extractLsb'_append_eq_of_le (by decide)]
  exact BitVec.extractLsb'_append_eq_right

@[simp] theorem mkRecord_offset : Record.offset (mkRecord kind off data) = off := by
  rw [Record.offset, mkRecord, BitVec.extractLsb'_append_eq_of_le (by decide)]
  exact BitVec.extractLsb'_append_eq_right

@[simp] theorem mkRecord_data : Record.data (mkRecord kind off data) = data :=
  BitVec.extractLsb'_append_eq_right

end

theorem decodeRecord_recordOf_rd (off : Offset) : decodeRecord (recordOf (.rd off)) = .ok (.rd off) := by
  simp [recordOf, encode, decodeRecord]

theorem decodeRecord_recordOf_wr (off : Offset) (v : Word) :
    decodeRecord (recordOf (.wr off v)) = .ok (.wr off v) := by
  simp [recordOf, encode, decodeRecord]

/-! ### Runs of settled host turns -/

theorem step_of_host_record {s : State} {ts : List Turn} {w : Record} {i : Instr} (hturns : s.turns = .host :: ts)
    (hw : s.program[s.pos]? = some w) (hi : decodeRecord w = .ok i) : step s = exec i { s with turns := ts } := by
  simp only [step, State.takeTurn_of_cons hturns, agentTurn, hostTurn, hw, hi]

theorem run_of_steps {f : Nat → State} {n : Nat} (h : ∀ j < n, step (f j) = .next (f (j + 1))) {k : Nat}
    (hk : k ≤ n) : Sys2Proof.core.run k (f 0) = .next (f k) := by
  induction k generalizing f n with
  | zero => rfl
  | succ k ih =>
    rw [run_next (h 0 (by omega))]
    exact ih (f := fun j => f (j + 1)) (n := n - 1) (fun j hj => h (j + 1) (by omega)) (by omega)

theorem State.runsProgram.eq_hostAt {s : State} {prog : List Record} {n : Nat} (h : s.runsProgram prog n) :
    s = s.hostAt 0 (List.replicate n .host) := by
  obtain ⟨-, hpos, hturns⟩ := h
  rw [State.hostAt, ← hpos, ← hturns]

/-- The host's turns at the records of `g 0, .., g (n - 1)` take the machine through `f`, if exec of each does. -/
theorem run_records {g : Nat → Instr} {f : Nat → State} {n : Nat}
    (hprog : ∀ j < n, (f j).program = ((List.range n).map g).map recordOf)
    (hdec : ∀ j < n, decodeRecord (recordOf (g j)) = .ok (g j))
    (hexec : ∀ j < n, ∀ ts, exec (g j) ((f j).hostAt j ts) = .next ((f (j + 1)).hostAt (j + 1) ts))
    {k : Nat} (hk : k ≤ n) :
    Sys2Proof.core.run k ((f 0).hostAt 0 (List.replicate n .host))
      = .next ((f k).hostAt k (List.replicate (n - k) .host)) := by
  refine run_of_steps (f := fun j => (f j).hostAt j (List.replicate (n - j) .host)) (n := n) (fun j hj => ?_) hk
  have hturns : ((f j).hostAt j (List.replicate (n - j) .host)).turns
      = .host :: List.replicate (n - (j + 1)) .host := by
    rw [State.hostAt, ← List.replicate_succ, show n - (j + 1) + 1 = n - j by omega]
  have hrec : (f j).program[j]? = some (recordOf (g j)) := by simp [hprog j hj, hj]
  rw [step_of_host_record hturns hrec (hdec j hj)]
  exact hexec j hj _

/-! ### Wide writes -/

/-- `x` with its first k words replaced by those of `v`. -/
def replaceWords {n m : Nat} (x : BitVec n) (v : BitVec m) : Nat → BitVec n
  | 0 => x
  | k + 1 => setWideWord (replaceWords x v k) k (wideWord v k)

theorem replaceWords_getLsbD {n m : Nat} (x : BitVec n) (v : BitVec m) (k : Nat) {b : Nat} (hb : b < n) :
    (replaceWords x v k).getLsbD b = if b < 32 * k then v.getLsbD b else x.getLsbD b := by
  induction k with
  | zero => simp [replaceWords]
  | succ k ih =>
    rw [replaceWords, setWideWord_getLsbD _ _ _ _ hb, wideWord_getLsbD, ih]
    by_cases hlo : b < 32 * k
    · simp [show ¬ 32 * k ≤ b by omega, hlo, show b < 32 * (k + 1) by omega]
    · by_cases hhi : b < 32 * k + 32
      · simp [show 32 * k ≤ b by omega, hhi, show b < 32 * (k + 1) by omega, show b - 32 * k < 32 by omega]
      · simp [hhi, hlo, show ¬ b < 32 * (k + 1) by omega]

/-- Replacing all words of a register leaves the new value. -/
theorem replaceWords_all {n : Nat} (x v : BitVec n) {k : Nat} (hk : n = 32 * k) : replaceWords x v k = v := by
  apply BitVec.eq_of_getLsbD_eq
  intro b hb
  rw [replaceWords_getLsbD _ _ _ hb, if_pos (by omega)]

/-- Replacing the lower words of A keeps its upper half. -/
theorem replaceWords_low (x : Wide512) (v : Wide) : replaceWords x v 8 = x.extractLsb' 256 256 ++ v := by
  apply BitVec.eq_of_getLsbD_eq
  intro b hb
  rw [replaceWords_getLsbD _ _ _ hb, BitVec.getLsbD_append, BitVec.getLsbD_extractLsb']
  by_cases hlo : b < 256
  · simp [hlo]
  · simp [hlo, show b - 256 < 256 by omega, show 256 + (b - 256) = b by omega]

section
variable {reg : RegName} {base words n : Nat} {get : State → BitVec n} {set : BitVec n → State → State}

/-- The writes of the first k words of `v`, run by as many host turns, replace these words of the register. -/
theorem IsOperand.run_writes (h : IsOperand reg base words get set) {m k : Nat} (v : BitVec m) (hk : k ≤ words)
    {s : State} (hrun : s.runsProgram
      (((List.range k).map fun j => Instr.wr (wordAt base j) (wideWord v j)).map recordOf) k) :
    Sys2Proof.core.run k s = .next { set (replaceWords (get s) v k) s with pos := k, turns := [] } := by
  have hrec := run_records (f := fun j => set (replaceWords (get s) v j) s)
    (fun j _ => (h.set_frame _ s).1.trans hrun.1) (fun j _ => decodeRecord_recordOf_wr _ _)
    (fun j hj ts => h.exec_wr (by omega) _ _ s j ts) le_rfl
  rw [replaceWords, h.set_get, ← hrun.eq_hostAt, Nat.sub_self] at hrec
  exact hrec

/-- A statement that writes the first k words of `v` assembles, and its run replaces these words (R64). -/
theorem IsOperand.run_wideWrite (h : IsOperand reg base words get set) {m k : Nat} (v : BitVec m) (hk : k ≤ words)
    {st : Stmt} (hst : expand st = writeWords reg v k) :
    ∃ prog, assemble [st] = some prog ∧ ∀ s : State, s.runsProgram prog k →
      Sys2Proof.core.run k s = .next { set (replaceWords (get s) v k) s with pos := k, turns := [] } :=
  ⟨_, assemble_singleton (hst.trans (writeWords_mapped h.mapped v hk)), fun _ => h.run_writes v hk⟩

end

theorem IsOperand.run_wr256 {reg : RegName} {base : Nat} {get : State → Wide} {set : Wide → State → State}
    (h : IsOperand reg base 8 get set) (value : Int) :
    ∃ prog, assemble [.wr256 reg value] = some prog ∧ ∀ s : State, s.runsProgram prog 8 →
      Sys2Proof.core.run 8 s = .next { set (BitVec.ofInt 256 value) s with pos := 8, turns := [] } := by
  simpa only [replaceWords_all _ _ (show 256 = 32 * 8 from rfl)]
    using h.run_wideWrite (BitVec.ofInt 256 value) le_rfl (st := .wr256 reg value) rfl

theorem run_wr256_a (value : Int) : ∃ prog, assemble [.wr256 .a value] = some prog ∧
    ∀ s : State, s.runsProgram prog 8 → Sys2Proof.core.run 8 s
      = .next { s with a := s.a.extractLsb' 256 256 ++ BitVec.ofInt 256 value, pos := 8, turns := [] } := by
  simpa only [replaceWords_low] using
    isOperand_a.run_wideWrite (k := 8) (BitVec.ofInt 256 value) (by decide) (st := .wr256 .a value) rfl

theorem run_wr512 (value : Int) : ∃ prog, assemble [.wr512 value] = some prog ∧
    ∀ s : State, s.runsProgram prog 16 → Sys2Proof.core.run 16 s
      = .next { s with a := BitVec.ofInt 512 value, pos := 16, turns := [] } := by
  simpa only [replaceWords_all _ _ (show 512 = 32 * 16 from rfl)]
    using isOperand_a.run_wideWrite (BitVec.ofInt 512 value) le_rfl (st := .wr512 value) rfl

/-! ### Wide reads -/

theorem wideWord_low (v : Wide512) {j : Nat} (hj : j < 8) : wideWord (v.extractLsb' 0 256) j = wideWord v j := by
  apply BitVec.eq_of_getLsbD_eq
  intro b hb
  simp [wideWord_getLsbD, show 32 * j + b < 256 by omega]

section
variable {s : State} {reg : RegName} {x : Wide}

/-- A register that RD256 reads has at least 8 words. -/
theorem readable256_mapped (h : readable256 s reg = some x) : ∃ row ∈ registerMap, row.reg = reg ∧ 8 ≤ row.words := by
  cases reg
  case id | ctrl | status | errcode | cmd | seedCtrl => cases h
  all_goals decide

theorem readsFree_of_readable256 (h : readable256 s reg = some x) : readsFree s reg = false := by
  by_cases hreg : reg = .dconst
  · subst hreg
    cases hready : s.ready
    · simp [readable256, hready] at h
    · exact readsFree_of_ready hready _
  · exact readsFree_of_ne hreg s

theorem readWord_of_readable256 (h : readable256 s reg = some x) {j : Nat} (hj : j < 8) :
    readWord s reg j = wideWord x j := by
  cases reg
  case id | ctrl | status | errcode | cmd | seedCtrl => cases h
  case a =>
    injection h with h
    exact h ▸ (wideWord_low s.a hj).symm
  case dconst =>
    cases hready : s.ready
    · simp [readable256, hready] at h
    · obtain rfl : BitVec.ofNat 256 curveD = x := by simpa [readable256, hready] using h
      exact readWord_dconst_of_ready hready j
  all_goals
    injection h with h
    exact h ▸ rfl

/-- What RD256 reads does not depend on the host's own fields. -/
theorem readable256_hostAt (s : State) (reg : RegName) (w : Word) (p : Nat) (ts : List Turn) :
    readable256 ({ s with rdata := w }.hostAt p ts) reg = readable256 s reg := by
  cases reg <;> rfl

/-- The word that the host holds after the first j reads of the words of `x`. -/
def State.lastRead (s : State) (x : Wide) : Nat → Word
  | 0 => s.rdata
  | j + 1 => wideWord x j

/-- The reads of the 8 words of a register, run by as many host turns, answer the words of its value in turn (R64). -/
theorem run_reads {base words : Nat} (hrow : ⟨reg, base, words⟩ ∈ registerMap) (hwords : 8 ≤ words)
    (h : readable256 s reg = some x)
    (hrun : s.runsProgram (((List.range 8).map fun j => Instr.rd (wordAt base j)).map recordOf) 8) {j : Nat}
    (hj : j < 8) : Sys2Proof.core.run (j + 1) s
      = .next { s with rdata := wideWord x j, pos := j + 1, turns := List.replicate (7 - j) .host } := by
  have hrec := run_records (f := fun j => { s with rdata := s.lastRead x j }) (k := j + 1)
    (fun _ _ => hrun.1) (fun j _ => decodeRecord_recordOf_rd _) (fun i hi ts => ?_) hj
  · rw [State.lastRead, ← hrun.eq_hostAt, Nat.add_sub_add_right 7 1 j] at hrec
    exact hrec
  · have hi' := (readable256_hostAt s reg (s.lastRead x i) i ts).trans h
    rw [exec_rd_wordAt hrow (by omega) (readsFree_of_readable256 hi'), readWord_of_readable256 hi' hi]
    rfl

end

/-! ### Seed bytes -/

theorem seedValue_lt (bytes : List (BitVec 8)) : seedValue bytes < 256 ^ bytes.length := by
  induction bytes with
  | nil => simp [seedValue]
  | cons b bs ih =>
    have hb := b.isLt
    rw [seedValue, List.length_cons, Nat.pow_succ]
    omega

theorem seedValue_div_mod (bytes : List (BitVec 8)) (i : Nat) (h : i < bytes.length) :
    seedValue bytes / 256 ^ i % 256 = bytes[i].toNat := by
  induction bytes generalizing i with
  | nil => simp at h
  | cons b bs ih =>
    have hb := b.isLt
    cases i with
    | zero => simpa [seedValue] using hb
    | succ i =>
      have hdiv : (b.toNat + 256 * seedValue bs) / 256 = seedValue bs := by omega
      rw [seedValue, Nat.pow_succ', ← Nat.div_div_eq_div_mul, hdiv]
      exact ih i (by simpa using h)

/-- Seed byte i stands at bits 8i+7 to 8i of the seed value (R29). -/
theorem extractLsb'_seedValue {bytes : List (BitVec 8)} {i : Nat} (h : i < bytes.length) (hlen : bytes.length = 32) :
    (BitVec.ofNat 256 (seedValue bytes)).extractLsb' (8 * i) 8 = bytes[i] := by
  have hlt : seedValue bytes < 2 ^ 256 := (seedValue_lt bytes).trans_eq (by rw [hlen]; norm_num)
  apply BitVec.eq_of_toNat_eq
  rw [BitVec.extractLsb'_toNat, BitVec.toNat_ofNat, Nat.mod_eq_of_lt hlt, Nat.shiftRight_eq_div_pow, Nat.pow_mul]
  exact seedValue_div_mod bytes i h

/-- Settles O6, by the runs of wide writes and of wide reads. -/
theorem wideStatementsMoveTheWholeValue : Obligations.WideStatementsMoveTheWholeValue := by
  refine ⟨fun reg hreg value => ?_, run_wr256_a, run_wr512, fun reg x s h => ?_,
    fun bytes i h hlen => ⟨expand_wrSeed hlen, extractLsb'_seedValue h hlen⟩⟩
  · simp only [List.mem_cons, List.not_mem_nil, or_false] at hreg
    obtain rfl | rfl | rfl | rfl | rfl | rfl | rfl := hreg
    · exact isOperand_m.run_wr256 value
    · exact isOperand_x1.run_wr256 value
    · exact isOperand_y1.run_wr256 value
    · exact isOperand_x2.run_wr256 value
    · exact isOperand_y2.run_wr256 value
    · exact isOperand_k.run_wr256 value
    · exact isOperand_seed.run_wr256 value
  · obtain ⟨row, hrow, rfl, hwords⟩ := readable256_mapped h
    exact ⟨_, assemble_singleton (readWords_mapped hrow hwords), fun hrun j hj => run_reads hrow hwords h hrun hj⟩

/-! ### What a command writes, as data -/

/-- What the completion of a command writes (R107, R108): the event, R, the point in RX and RY, the key of CLAMP, which
clears SEED and SEED_CTRL.VALID with it, and ONCURVE. What is `none` keeps its value. -/
structure CommandResult where
  error : Option FatalCode := none
  r : Option Wide := none
  point : Option Point := none
  key : Option Wide := none
  onCurve : Option Bool := none

/-- The result of a command that ends with a point (R77, R78, R83). -/
def pointResult : Except FatalCode Point → CommandResult
  | .ok p => { point := some p }
  | .error e => { error := some e }

/-- The result of a command on its snapshot and the base point `g`. It takes no state: see `exec_command_eq`. -/
def commandResult (g : Point) (sn : Snapshot) : Command → CommandResult
  | .reduce => { r := some (bits256 (reduce (valS sn.a))) }
  | .inv =>
    match modInverse (sn.a.extractLsb' 0 256).toNat (valU sn.m) with
    | .ok x => { r := some (bits256 x) }
    | .error e => { error := some e }
  | .padd => pointResult (pointAdd sn.point1 sn.point2)
  | .pdbl => pointResult (pointAdd sn.point1 sn.point1)
  | .smul => pointResult (scalarMul (valU sn.k) sn.point1)
  | .clamp =>
    if sn.seedFail || !sn.seedValid then { error := some .entropyFail }
    else { r := some (bits256 (clampRaw sn.seed)), key := some (bits256 (clampKey sn.seed)) }
  | .derive =>
    match scalarMul (valU sn.k) g with
    | .error e => { error := some e }
    | .ok p =>
      if pointOnCurve p sn.vmodel then { point := some p, onCurve := some true }
      else { error := some .notOnCurve, onCurve := some false }
  | .check =>
    { r := some (bits256 (pointOnCurve sn.point1 sn.vmodel).toNat)
      onCurve := some (pointOnCurve sn.point1 sn.vmodel) }

/-- The completion with the writes of `res`. -/
def State.complete (s : State) (res : CommandResult) : State :=
  { s with
    running := none, done := true
    err := res.error.isSome || s.err
    fatalCode := (res.error.map FatalCode.code).getD s.fatalCode
    r := res.r.getD s.r
    rx := (res.point.map fun p => bits256 p.x).getD s.rx
    ry := (res.point.map fun p => bits256 p.y).getD s.ry
    k := res.key.getD s.k
    seed := if res.key.isSome then 0#256 else s.seed
    seedValid := !res.key.isSome && s.seedValid
    onCurve := res.onCurve.getD s.onCurve }

theorem finishPoint_eq_complete (s : State) (res : Except FatalCode Point) :
    s.finishPoint res = s.complete (pointResult res) := by
  cases res <;> rfl

/-- The completion of a command writes its result and nothing else (R107). -/
theorem exec_command_eq {c : Command} {s : State} {sn : Snapshot} (h : s.running = some ⟨c, sn⟩) :
    exec c.toInstr s = .next (s.complete (commandResult s.basePoint sn c)) := by
  cases c <;>
    simp only [Command.toInstr, exec, execReduce, execInv, execPadd, execPdbl, execSmul, execClamp, execDerive,
      execCheck, completing_of_running _ h, finishPoint_eq_complete, commandResult]
  case reduce | check => rfl
  case inv => cases modInverse (sn.a.extractLsb' 0 256).toNat (valU sn.m) <;> rfl
  case clamp => cases sn.seedFail || !sn.seedValid <;> rfl
  case derive =>
    cases scalarMul (valU sn.k) s.basePoint with
    | error e => rfl
    | ok p => cases hp : pointOnCurve p sn.vmodel <;> simp only [hp] <;> rfl

/-- Everything a command's completion can do, with the values it writes. -/
theorem exec_command_complete {c : Command} {s t : State} (h : exec c.toInstr s = .next t) :
    ∃ sn, s.running = some ⟨c, sn⟩ ∧ t = s.complete (commandResult s.basePoint sn c) := by
  obtain ⟨sn, hrun, -⟩ := exec_command_next h
  rw [exec_command_eq hrun] at h
  injection h with h
  exact ⟨sn, hrun, h.symm⟩

/-! ### What a completion leaves unchanged -/

section Kept
variable {s : State} {res : CommandResult}

theorem State.complete_of_error_none (h : res.error = none) :
    (s.complete res).err = s.err ∧ (s.complete res).fatalCode = s.fatalCode := by
  simp [State.complete, h]

theorem State.complete_of_r_none (h : res.r = none) : (s.complete res).r = s.r := by
  simp [State.complete, h]

theorem State.complete_of_point_none (h : res.point = none) :
    (s.complete res).rx = s.rx ∧ (s.complete res).ry = s.ry := by
  simp [State.complete, h]

theorem State.complete_of_key_none (h : res.key = none) :
    (s.complete res).k = s.k ∧ (s.complete res).seed = s.seed ∧ (s.complete res).seedValid = s.seedValid := by
  simp [State.complete, h]

theorem State.complete_of_onCurve_none (h : res.onCurve = none) : (s.complete res).onCurve = s.onCurve := by
  simp [State.complete, h]

end Kept

/-- Which parts of a result a command can have (R58), and that a failure writes none of the registers (R112). -/
structure CommandResult.IsOf (res : CommandResult) (c : Command) : Prop where
  key : c ≠ .clamp → res.key = none
  r : c = .padd ∨ c = .pdbl ∨ c = .smul ∨ c = .derive → res.r = none
  point : c = .reduce ∨ c = .inv ∨ c = .clamp ∨ c = .check → res.point = none
  onCurve : c ≠ .derive → c ≠ .check → res.onCurve = none
  failure : res.error ≠ none → res.r = none ∧ res.point = none ∧ res.key = none

theorem pointResult_isOf {c : Command} (hc : c = .padd ∨ c = .pdbl ∨ c = .smul) (res : Except FatalCode Point) :
    (pointResult res).IsOf c := by
  cases res with
  | ok p => obtain rfl | rfl | rfl := hc <;> constructor <;> simp [pointResult]
  | error e => constructor <;> simp [pointResult]

theorem commandResult_isOf (g : Point) (sn : Snapshot) (c : Command) : (commandResult g sn c).IsOf c := by
  cases c with
  | reduce | check => constructor <;> simp [commandResult]
  | padd | pdbl | smul => exact pointResult_isOf (by simp) _
  | inv | clamp =>
    rw [commandResult]
    split <;> constructor <;> simp
  | derive =>
    rw [commandResult]
    split
    · constructor <;> simp
    · split <;> constructor <;> simp

/-- Settles O39: a completion writes the parts of a result that the command has. -/
theorem commandsChangeOnlyTheirResults : Obligations.CommandsChangeOnlyTheirResults := by
  intro c s t h
  obtain ⟨sn, -, rfl⟩ := exec_command_complete h
  have hres := commandResult_isOf s.basePoint sn c
  refine ⟨⟨rfl, rfl, rfl⟩, ⟨rfl, rfl, rfl⟩, rfl, rfl, rfl, rfl, rfl, rfl, rfl, rfl, rfl, rfl, rfl, rfl, rfl, rfl, rfl,
    rfl, rfl, rfl, fun hc => State.complete_of_key_none (hres.key hc), fun hc => State.complete_of_r_none (hres.r hc),
    fun hc => State.complete_of_point_none (hres.point hc),
    fun hderive hcheck => State.complete_of_onCurve_none (hres.onCurve hderive hcheck), fun hfail => ?_⟩
  have herror : (commandResult s.basePoint sn c).error ≠ none := by
    intro hnone
    obtain ⟨herr, hcode⟩ := State.complete_of_error_none (s := s) hnone
    exact hfail.elim (· hcode) (· herr)
  obtain ⟨hr, hpoint, hkey⟩ := hres.failure herror
  obtain ⟨hk, hseed, hvalid⟩ := State.complete_of_key_none (s := s) hkey
  exact ⟨⟨State.complete_of_r_none hr, State.complete_of_point_none hpoint⟩, hk, hseed, hvalid, by
    simp [State.complete, Option.isSome_iff_ne_none.2 herror]⟩

/-- Settles O40: both completions write the same result, and what it does not hold they keep. -/
theorem outcomeDependsOnTheSnapshotAlone : Obligations.OutcomeDependsOnTheSnapshotAlone := by
  intro c sn s1 s2 t1 t2 hrun1 hrun2 hgx hgy herr1 herr2 hcode h1 h2
  have hg : s1.basePoint = s2.basePoint := by rw [State.basePoint, State.basePoint, hgx, hgy]
  rw [exec_command_eq hrun1, hg] at h1
  rw [exec_command_eq hrun2] at h2
  generalize commandResult s2.basePoint sn c = res at h1 h2
  obtain rfl : s1.complete res = t1 := by injection h1
  obtain rfl : s2.complete res = t2 := by injection h2
  refine ⟨by simp [State.complete, herr1, herr2], by simp [State.complete, hcode], ?_, ?_, ?_, ?_⟩
  · cases hr : res.r with
    | none => exact .inr ⟨State.complete_of_r_none hr, State.complete_of_r_none hr⟩
    | some x => exact .inl (by simp [State.complete, hr])
  · cases hpoint : res.point with
    | none =>
      obtain ⟨hx1, hy1⟩ := State.complete_of_point_none (s := s1) hpoint
      exact .inr ⟨hx1, hy1, State.complete_of_point_none hpoint⟩
    | some p => exact .inl (by simp [State.complete, hpoint])
  · cases hkey : res.key with
    | none =>
      obtain ⟨hk1, hseed1, hvalid1⟩ := State.complete_of_key_none (s := s1) hkey
      exact .inr ⟨hk1, hseed1, hvalid1, State.complete_of_key_none hkey⟩
    | some x => exact .inl (by simp [State.complete, hkey])
  · cases honCurve : res.onCurve with
    | none => exact .inr ⟨State.complete_of_onCurve_none honCurve, State.complete_of_onCurve_none honCurve⟩
    | some b => exact .inl (by simp [State.complete, honCurve])

/-! ### The interrupt -/

/-- A completion sets DONE, so `irq` is IE (R32, R107). -/
theorem exec_command_irq {c : Command} {s t : State} (h : exec c.toInstr s = .next t) : t.irq = s.ie := by
  obtain ⟨sn, -, rfl⟩ := exec_command_complete h
  simp [State.irq, State.complete]

/-- The write of STATUS that clears DONE and REJ clears `irq` (R24, R32). -/
theorem exec_wr_status_irq {s t : State} (h : exec (.wr 0x008#12 0x00000022#32) s = .next t) : t.irq = false := by
  rw [exec_wr_status] at h
  injection h with h
  subst h
  simp [State.irq]

/-- Settles O52: by the definition of `irq`, the completions, and the write of STATUS. -/
theorem irqFollowsDoneAndRej : Obligations.IrqFollowsDoneAndRej :=
  ⟨fun s => by simp [State.irq], rfl, fun _ _ _ => exec_command_irq, fun _ _ => exec_wr_status_irq⟩

/-! ### What a write that is no soft reset leaves unchanged -/

/-- The results stay, and so does a command that runs. -/
structure KeepsCommand (s t : State) : Prop where
  results : SameResults s t
  running : ∀ r, s.running = some r → t.running = some r

theorem State.issue_keepsCommand (s : State) (w : Word) : KeepsCommand s (s.issue w) := by
  obtain ⟨c, -, -, hidle, -, h⟩ | ⟨c, h⟩ := s.issue_cases w <;> rw [h]
  · exact ⟨⟨rfl, rfl, rfl⟩, fun r hr => by simp [hidle] at hr⟩
  · exact ⟨⟨rfl, rfl, rfl⟩, fun _ hr => hr⟩

theorem writeWord_keepsCommand {reg : RegName} {j : Nat} {v : Word} {s t : State} (h : writeWord reg j v s = some t)
    (hno : ¬ (reg = .ctrl ∧ v.getLsbD 0 = true)) : KeepsCommand s t := by
  cases reg
  case cmd =>
    injection h with h
    exact h ▸ s.issue_keepsCommand v
  case ctrl =>
    have hsrst : v.getLsbD 0 = false := by simpa using hno
    rw [writeWord, hsrst] at h
    injection h with h
    subst h
    exact ⟨⟨rfl, rfl, rfl⟩, fun _ hr => hr⟩
  case status | seedCtrl | a | m | x1 | y1 | x2 | y2 | k | seed =>
    injection h with h
    subst h
    exact ⟨⟨rfl, rfl, rfl⟩, fun _ hr => hr⟩
  case id | errcode | r | rx | ry | prime | dconst | gx | gy => cases h

/-- CTRL has one word, at offset 0x004 (R21). -/
theorem eq_of_locate_ctrl {off : Offset} {j : Nat} (h : locate off = .ok (.ctrl, j)) : off = 0x004#12 := by
  obtain ⟨row, hrow, hreg, hj, hoff⟩ := locate_ok h
  have hctrl : ∀ row ∈ registerMap, row.reg = .ctrl → row.base = 0x004 ∧ row.words = 1 := by decide
  obtain ⟨hbase, hwords⟩ := hctrl row hrow hreg
  apply BitVec.eq_of_toNat_eq
  rw [hoff, hbase, show j = 0 by omega]
  rfl

/-- A WR that is no soft reset keeps the results and the running command (R34, R133). -/
theorem exec_wr_keepsCommand {off : Offset} {v : Word} {s t : State} (h : exec (.wr off v) s = .next t)
    (hno : ¬ (off = 0x004#12 ∧ v.getLsbD 0 = true)) : KeepsCommand s t := by
  obtain ⟨reg, j, u, hl, hw, rfl⟩ := execWr_next h
  have hu := writeWord_keepsCommand hw fun ⟨hreg, hsrst⟩ => hno ⟨eq_of_locate_ctrl (hreg ▸ hl), hsrst⟩
  exact ⟨hu.results, hu.running⟩

theorem exec_rd_keepsCommand {off : Offset} {s t : State} (h : exec (.rd off) s = .next t) : KeepsCommand s t := by
  obtain ⟨reg, j, -, rfl⟩ := execRd_next h
  exact ⟨⟨rfl, rfl, rfl⟩, fun _ hr => hr⟩

theorem exec_poll_keepsCommand {off : Offset} {mask : Word} {s t : State} (h : exec (.poll off mask) s = .next t) :
    KeepsCommand s t := by
  obtain ⟨reg, j, -, rfl | rfl⟩ := execPoll_next h <;> exact ⟨⟨rfl, rfl, rfl⟩, fun _ hr => hr⟩

/-- Settles O41, by the frame of each access. -/
theorem hostAccessesKeepTheRunningCommand : Obligations.HostAccessesKeepTheRunningCommand :=
  fun _ _ _ _ r hr => ⟨fun h => (exec_rd_keepsCommand h).running r hr,
    fun h => (exec_poll_keepsCommand h).running r hr, fun h hno => (exec_wr_keepsCommand h hno).running r hr⟩

/-- A host turn that changes a result is the host's soft reset. -/
theorem hostTurn_sameResults {s t : State} (h : hostTurn s = .next t) (hno : ¬ s.hostSoftResets) :
    SameResults s t := by
  obtain ⟨-, rfl⟩ | ⟨w, i, hw, hi, h⟩ := hostTurn_next h
  · exact ⟨rfl, rfl, rfl⟩
  obtain rfl | rfl | rfl := decodeRecord_ok hi
  · exact (exec_rd_keepsCommand h).results
  · exact (exec_wr_keepsCommand h fun ⟨hoff, hsrst⟩ => hno ⟨w, _, hw, hoff ▸ hi, hsrst⟩).results
  · exact (exec_poll_keepsCommand h).results

/-- An engine turn that changes a result completes a command of a ready core. -/
theorem engineTurn_sameResults {s t : State} (h : engineTurn s = .next t)
    (hno : ¬ (s.ready = true ∧ s.running ≠ none)) : SameResults s t := by
  obtain ⟨-, rfl⟩ | ⟨-, -, rfl⟩ | ⟨r, hready, hrun, -⟩ := engineTurn_next h
  · exact ⟨rfl, rfl, rfl⟩
  · exact ⟨rfl, rfl, rfl⟩
  · exact absurd ⟨hready, by simp [hrun]⟩ hno

/-- Settles O57, agent by agent: taking a turn changes none of the registers that the agents' frames speak of. -/
theorem resultsChangeOnlyAtACompletion : Obligations.ResultsChangeOnlyAtACompletion := by
  intro s t h hchange
  obtain ⟨ts, n, hturn⟩ := s.takeTurn_frame
  have hcases := step_cases h
  rw [hturn] at hcases
  by_contra hno
  obtain ⟨hagent, h⟩ | ⟨hagent, h⟩ | ⟨hagent, -⟩ := hcases
  · have hsame := hostTurn_sameResults h fun hreset => hno (.inr (.inr ⟨hagent, hreset⟩))
    exact hchange hsame
  · have hsame := engineTurn_sameResults h fun hcomplete => hno (.inl ⟨hagent, hcomplete⟩)
    exact hchange hsame
  · exact hno (.inr (.inl hagent))

end Sys2Proof.Machine

/-!
PROOFS of family 20: one step is exec of the decoded instruction (O7), which accesses get ERROR (O44), and what a
written operand word changes in the words read (O48). The offset of an access is first taken to the word it reaches or
to the cause of the ERROR; what is left is about the register alone.
-/

namespace Sys2Proof.Machine

/-! ### One step -/

theorem step_of_engine_command {s : State} {ts : List Turn} {r : Running} (hturns : s.turns = .engine :: ts)
    (hready : s.ready = true) (hrun : s.running = some r) : step s = exec r.cmd.toInstr { s with turns := ts } := by
  simp [step, State.takeTurn_of_cons hturns, agentTurn, engineTurn, hready, hrun]

/-- Settles O7, by the agent whose turn is settled. -/
theorem stepRunsTheDecodedInstruction : Obligations.StepRunsTheDecodedInstruction :=
  ⟨fun _ _ _ _ => step_of_host_record, fun _ _ _ => step_of_engine_command⟩

/-! ### Where an access lands -/

theorem findWord_eq_none_iff {rows : List MapRow} {o : Nat} :
    findWord rows o = none ↔ ∀ row ∈ rows, ¬ (row.base ≤ o ∧ o < row.base + 4 * row.words) := by
  induction rows with
  | nil => simp [findWord]
  | cons row rest ih =>
    rw [findWord, List.forall_mem_cons, ← ih]
    split <;> simp [*]

/-- The rows lie in four blocks: the control, the operand, the result and the constant registers (R21). -/
theorem registerMap_blocks : ∀ row ∈ registerMap, row.base + 4 * row.words ≤ 0x018
    ∨ 0x040 ≤ row.base ∧ row.base + 4 * row.words ≤ 0x160
    ∨ 0x180 ≤ row.base ∧ row.base + 4 * row.words ≤ 0x1E0
    ∨ 0x200 ≤ row.base ∧ row.base + 4 * row.words ≤ 0x280 := by
  decide

/-- The listed offsets are the aligned ones in a row of the map (R21). -/
theorem offsetListed_iff {off : Offset} : offsetListed off ↔ off.toNat % 4 = 0 ∧
    ∃ row ∈ registerMap, row.base ≤ off.toNat ∧ off.toNat < row.base + 4 * row.words := by
  refine and_congr_right fun haligned => ⟨fun h => ?_, fun ⟨row, hrow, hlo, hhi⟩ => ?_⟩
  · simp only [registerMap, List.exists_mem_cons_iff, List.not_mem_nil, false_and, exists_false]
    omega
  · have hblock := registerMap_blocks row hrow
    omega

theorem locate_of_misaligned {off : Offset} (h : off.toNat % 4 ≠ 0) : locate off = .error .misaligned :=
  if_pos h

theorem locate_of_unlisted {off : Offset} (haligned : off.toNat % 4 = 0) (h : ¬ offsetListed off) :
    locate off = .error .unmapped := by
  have hnone : findWord registerMap off.toNat = none :=
    findWord_eq_none_iff.2 fun row hrow hin => h (offsetListed_iff.2 ⟨haligned, row, hrow, hin⟩)
  simp [locate, haligned, hnone]

theorem locate_of_listed {off : Offset} (h : offsetListed off) : ∃ reg j, locate off = .ok (reg, j) := by
  obtain ⟨haligned, row, hrow, hin⟩ := offsetListed_iff.1 h
  obtain ⟨⟨reg, j⟩, hfind⟩ := Option.ne_none_iff_exists'.1 fun hnone => findWord_eq_none_iff.1 hnone row hrow hin
  exact ⟨reg, j, by simp [locate, haligned, hfind]⟩

/-- No two offsets reach one word. -/
theorem locate_inj {off off' : Offset} {reg : RegName} {j : Nat} (h : locate off = .ok (reg, j))
    (h' : locate off' = .ok (reg, j)) : off = off' := by
  obtain ⟨row, hrow, hreg, -, hoff⟩ := locate_ok h
  obtain ⟨row', hrow', hreg', -, hoff'⟩ := locate_ok h'
  obtain rfl : row = row' := by
    have hmap := mapRow_mapped row hrow
    rw [hreg, ← hreg', mapRow_mapped row' hrow'] at hmap
    exact (Option.some.inj hmap).symm
  exact BitVec.eq_of_toNat_eq (hoff.trans hoff'.symm)

/-! ### Accesses that get ERROR -/

/-- An offset that reaches no word gets ERROR in every access, a read with data 0 (R96, R110). -/
theorem exec_of_locate_error {off : Offset} {c : BusCause} (h : locate off = .error c) (v : Word) (s : State) :
    exec (.rd off) s = .fault (.busError c off (some 0#32))
    ∧ exec (.wr off v) s = .fault (.busError c off none)
    ∧ exec (.poll off v) s = .fault (.busError c off (some 0#32)) := by
  simp only [exec, execRd, execWr, execPoll, busRead, busWrite, h, and_self]

/-- The registers that no write reaches (R41). -/
def RegName.readOnly : RegName → Bool
  | .id | .errcode | .r | .rx | .ry | .prime | .dconst | .gx | .gy => true
  | _ => false

theorem writeWord_isSome (reg : RegName) (j : Nat) (v : Word) (s : State) :
    (writeWord reg j v s).isSome = !reg.readOnly := by
  cases reg <;> rfl

theorem readOnly_mapped : ∀ row ∈ registerMap, ∀ j < row.words, row.reg.readOnly = true ↔
    row.base + 4 * j = 0x000 ∨ row.base + 4 * j = 0x00C ∨ 0x180 ≤ row.base + 4 * j := by
  decide

/-- The read-only words are ID, ERRCODE and all from R on (R21). -/
theorem readOnly_iff_of_locate {off : Offset} {reg : RegName} {j : Nat} (h : locate off = .ok (reg, j)) :
    reg.readOnly = true ↔ off = 0x000#12 ∨ off = 0x00C#12 ∨ 0x180 ≤ off.toNat := by
  obtain ⟨row, hrow, rfl, hj, hoff⟩ := locate_ok h
  rw [readOnly_mapped row hrow j hj, ← hoff, ← BitVec.toNat_inj, ← BitVec.toNat_inj]
  rfl

theorem exec_wr_of_readOnly {off : Offset} {reg : RegName} {j : Nat} (h : locate off = .ok (reg, j))
    (hro : reg.readOnly = true) (v : Word) (s : State) :
    exec (.wr off v) s = .fault (.busError .readOnly off none) := by
  have hnone : writeWord reg j v s = none := by simpa [hro] using writeWord_isSome reg j v s
  simp only [exec, execWr, busWrite, h, hnone]

theorem exec_wr_of_writable {off : Offset} {reg : RegName} {j : Nat} (h : locate off = .ok (reg, j))
    (hro : reg.readOnly = false) (v : Word) (s : State) :
    ∃ t, exec (.wr off v) s = .next t ∧ t.pos = s.pos + 1 := by
  obtain ⟨u, hu⟩ := Option.isSome_iff_exists.1 ((writeWord_isSome reg j v s).trans (by rw [hro]; rfl))
  exact ⟨u.advance, exec_wr_of_locate h hu, congrArg (· + 1) (writeWord_effect hu).samePlace.pos⟩

/-- Settles O44: an offset reaches no word for one of two causes, or a word, whose register is read-only or not. -/
theorem accessesFaultExactlyWhereTheMapSays : Obligations.AccessesFaultExactlyWhereTheMapSays := by
  refine fun s off v => ⟨fun h => exec_of_locate_error (locate_of_misaligned h) v s,
    fun haligned h => exec_of_locate_error (locate_of_unlisted haligned h) v s,
    fun h hro => ?_, fun h => ?_, fun h hid herr hlt => ?_⟩ <;> obtain ⟨reg, j, hl⟩ := locate_of_listed h
  · exact exec_wr_of_readOnly hl ((readOnly_iff_of_locate hl).2 hro) v s
  · exact ⟨_, exec_rd_of_locate hl s, rfl⟩
  · have hro : ¬ reg.readOnly = true := fun hro => by
      obtain h | h | h := (readOnly_iff_of_locate hl).1 hro
      · exact hid h
      · exact herr h
      · omega
    exact exec_wr_of_writable hl (Bool.eq_false_iff.2 hro) v s

/-! ### What a written operand word changes in the words read -/

/-- The number of words of an operand register (R21, R28), and 0 for every other register. -/
def RegName.operandWords : RegName → Nat
  | .a => 16
  | .m | .x1 | .y1 | .x2 | .y2 | .k | .seed => 8
  | _ => 0

theorem operandWords_mapped : ∀ row ∈ registerMap,
    row.reg.operandWords = if 0x040 ≤ row.base ∧ row.base + 4 * row.words ≤ 0x160 then row.words else 0 := by
  decide

/-- A word of an operand register is one of its `operandWords`. -/
theorem lt_operandWords_of_locate {off : Offset} {reg : RegName} {j : Nat} (h : locate off = .ok (reg, j))
    (hop : reg.operandWords ≠ 0) : j < reg.operandWords := by
  obtain ⟨row, hrow, rfl, hj, -⟩ := locate_ok h
  rw [operandWords_mapped row hrow] at hop ⊢
  split at hop
  · rwa [if_pos ‹_›]
  · contradiction

theorem operandWords_ne_zero {off : Offset} {reg : RegName} {j : Nat} (h : locate off = .ok (reg, j))
    (hoff : operandOffset off) : reg.operandWords ≠ 0 := by
  obtain ⟨row, hrow, rfl, hj, hrowoff⟩ := locate_ok h
  obtain ⟨-, hlo, hhi⟩ := hoff
  have hblock := registerMap_blocks row hrow
  rw [operandWords_mapped row hrow, if_pos (by omega)]
  omega

theorem wideWord_setWideWord {n : Nat} (v : BitVec n) (i j : Nat) (w : Word) (hi : 32 * i + 32 ≤ n) :
    wideWord (setWideWord v j w) i = if i = j then w else wideWord v i := by
  split
  · next h => exact h ▸ wideWord_setWideWord_self v j w (h ▸ hi)
  · next h => exact wideWord_setWideWord_other v i j w h hi

section
variable {reg : RegName} {j : Nat} {v : Word} {s t : State}

/-- A write to word j of an operand register replaces that word of the register and keeps its others (R42, R44). -/
theorem readWord_of_operand_write (hw : writeWord reg j v s = some t) {i : Nat} (hi : i < reg.operandWords) :
    readWord t reg i = if i = j then v else readWord s reg i := by
  cases reg
  case a | m | x1 | y1 | x2 | y2 | k | seed =>
    injection hw with hw
    subst hw
    exact wideWord_setWideWord _ i j v (by simp only [RegName.operandWords] at hi; omega)
  all_goals contradiction

/-- A write to an operand register keeps every word of every other register (R44). -/
theorem readWord_of_operand_write_other (hw : writeWord reg j v s = some t) (hop : reg.operandWords ≠ 0)
    {reg' : RegName} (hreg : reg' ≠ reg) (i : Nat) : readWord t reg' i = readWord s reg' i := by
  cases reg
  case a | m | x1 | y1 | x2 | y2 | k | seed =>
    injection hw with hw
    subst hw
    cases reg'
    any_goals contradiction
    all_goals rfl
  all_goals contradiction

end

theorem readWord_advance (s : State) (reg : RegName) (i : Nat) : readWord s.advance reg i = readWord s reg i := by
  cases reg <;> rfl

/-- Settles O48: the read reaches the word written, another word of its register, or another register. -/
theorem operandWriteReadsBackAndTouchesNoOtherWord : Obligations.OperandWriteReadsBackAndTouchesNoOtherWord := by
  intro s t off v hoff h
  obtain ⟨reg, j, u, hl, hw, rfl⟩ := execWr_next h
  have hop : reg.operandWords ≠ 0 := operandWords_ne_zero hl hoff
  refine ⟨⟨_, exec_rd_of_locate hl _, ?_⟩, fun off' hlisted hne _ => ?_⟩
  · calc readWord u.advance reg j
      _ = readWord u reg j := readWord_advance u reg j
      _ = v := by rw [readWord_of_operand_write hw (lt_operandWords_of_locate hl hop), if_pos rfl]
  · obtain ⟨reg', i, hl'⟩ := locate_of_listed hlisted
    refine ⟨_, _, exec_rd_of_locate hl' s, exec_rd_of_locate hl' _, (readWord_advance u reg' i).trans ?_⟩
    by_cases hreg : reg' = reg
    · subst hreg
      have hij : i ≠ j := fun hij => hne (locate_inj hl' (hij ▸ hl))
      exact (readWord_of_operand_write hw (lt_operandWords_of_locate hl' hop)).trans (if_neg hij)
    · exact readWord_of_operand_write_other hw hop hreg i

end Sys2Proof.Machine

/-!
PROOFS of family 30: the decoders and the encoder (O1, O2, O3), words and mnemonics of the spec (O4, O5), the turns that
run no instruction (O8), and WAIT (O46). Each decoder is first characterised by what it answers on which words; the
statements about encodings follow from that.
-/

namespace Sys2Proof.Machine

/-! ### Command words -/

/-- The command words are the words of the eight commands, one each (R59). -/
theorem decodeCommand_eq_ok_iff {w : Word} {c : Command} : decodeCommand w = .ok c ↔ w = c.word :=
  ⟨decodeCommand_eq_ok, fun h => h ▸ decodeCommand_word c⟩

theorem decodeOpcode_eq_error_iff {op : BitVec 8} :
    decodeOpcode op = .error .illegalCommand ↔ op.toNat = 0 ∨ 9 ≤ op.toNat := by
  unfold decodeOpcode
  split
  case h_9 =>
    simp only [imp_false, true_iff] at *
    omega
  all_goals
    next hop => simp [hop]

theorem decodeCommand_eq_error_iff {w : Word} : decodeCommand w = .error .illegalCommand ↔
    commandRsv w ≠ 0#24 ∨ (commandOpcode w).toNat = 0 ∨ 9 ≤ (commandOpcode w).toNat := by
  unfold decodeCommand
  split
  · next hrsv => rw [decodeOpcode_eq_error_iff]; simp [hrsv]
  · next hrsv => simp [hrsv]

/-- Settles O3: the eight words are those of the commands, and the ninth outcome is that of all other words. -/
theorem commandWordsDecodeByTheOpcodeMap : Obligations.CommandWordsDecodeByTheOpcodeMap := fun _ =>
  ⟨decodeCommand_eq_ok_iff, decodeCommand_eq_ok_iff, decodeCommand_eq_ok_iff, decodeCommand_eq_ok_iff,
   decodeCommand_eq_ok_iff, decodeCommand_eq_ok_iff, decodeCommand_eq_ok_iff, decodeCommand_eq_ok_iff,
   decodeCommand_eq_error_iff⟩

theorem encode_toInstr (c : Command) : encode c.toInstr = ⟨32, c.word.toNat⟩ := by
  cases c <;> rfl

theorem decodeTableWord_encode_command (c : Command) :
    decodeTableWord (encode c.toInstr).nbits (encode c.toInstr).word = some c.toInstr := by
  simp [encode_toInstr, decodeTableWord, decodeCommand_word]

/-! ### Records -/

theorem decodeRecord_recordOf_poll (off : Offset) (mask : Word) :
    decodeRecord (recordOf (.poll off mask)) = .ok (.poll off mask) := by
  simp [recordOf, encode, decodeRecord]

theorem decodeTableWord_of_decodeRecord {n : Nat} {i : Instr} (h : decodeRecord (BitVec.ofNat 48 n) = .ok i) :
    decodeTableWord 48 n = some i := by
  simp [decodeTableWord, h]

/-- Settles O1, instruction by instruction: a command by its one word, a transaction by the fields of its record. -/
theorem decodeOfEncodeGivesBackEveryInstruction : Obligations.DecodeOfEncodeGivesBackEveryInstruction
  | .reduce => decodeTableWord_encode_command .reduce
  | .inv => decodeTableWord_encode_command .inv
  | .padd => decodeTableWord_encode_command .padd
  | .pdbl => decodeTableWord_encode_command .pdbl
  | .smul => decodeTableWord_encode_command .smul
  | .clamp => decodeTableWord_encode_command .clamp
  | .derive => decodeTableWord_encode_command .derive
  | .check => decodeTableWord_encode_command .check
  | .rd off => decodeTableWord_of_decodeRecord (decodeRecord_recordOf_rd off)
  | .wr off data => decodeTableWord_of_decodeRecord (decodeRecord_recordOf_wr off data)
  | .poll off mask => decodeTableWord_of_decodeRecord (decodeRecord_recordOf_poll off mask)

/-- A word with RSV = 0 is put together from its other three fields (R56). -/
theorem mkRecord_fields {w : Record} (h : Record.rsv w = 0#2) :
    mkRecord (Record.kind w) (Record.offset w) (Record.data w) = w := by
  rw [mkRecord, ← h, Record.kind, Record.rsv, Record.offset, Record.data,
    BitVec.extractLsb'_append_extractLsb'_eq_extractLsb' (by rfl),
    BitVec.extractLsb'_append_extractLsb'_eq_extractLsb' (by rfl),
    BitVec.extractLsb'_append_extractLsb'_eq_extractLsb' (by rfl)]
  exact BitVec.extractLsb'_eq_self

theorem recordKind_cases (w : Record) :
    Record.kind w = 0#2 ∨ Record.kind w = 1#2 ∨ Record.kind w = 2#2 ∨ Record.kind w = 3#2 := by
  generalize Record.kind w = kind
  revert kind
  decide

/-- What the decoder of records answers on which words (R56). -/
theorem decodeRecord_eq_ok_iff {w : Record} {i : Instr} : decodeRecord w = .ok i ↔ Record.rsv w = 0#2 ∧
    (Record.kind w = 0#2 ∧ Record.data w = 0#32 ∧ i = .rd (Record.offset w)
      ∨ Record.kind w = 1#2 ∧ i = .wr (Record.offset w) (Record.data w)
      ∨ Record.kind w = 2#2 ∧ i = .poll (Record.offset w) (Record.data w)) := by
  unfold decodeRecord
  by_cases hrsv : Record.rsv w = 0#2
  · obtain h | h | h | h := recordKind_cases w
    · by_cases hdata : Record.data w = 0#32 <;> simp [h, hrsv, hdata, eq_comm (a := i)]
    · simp [h, hrsv, eq_comm (a := i)]
    · simp [h, hrsv, eq_comm (a := i)]
    · simp [h]
  · rw [if_pos hrsv]
    split <;> simp [hrsv]

/-- A decoded record is the encoding of what it decodes to (R56). -/
theorem encode_of_decodeRecord {w : Record} {i : Instr} (h : decodeRecord w = .ok i) : encode i = ⟨48, w.toNat⟩ := by
  obtain ⟨hrsv, hcases⟩ := decodeRecord_eq_ok_iff.1 h
  have hw := mkRecord_fields hrsv
  obtain ⟨hkind, hdata, rfl⟩ | ⟨hkind, rfl⟩ | ⟨hkind, rfl⟩ := hcases
  · rw [encode, ← hkind, ← hdata, hw]
  · rw [encode, ← hkind, hw]
  · rw [encode, ← hkind, hw]

theorem encode_of_decodeCommand {w : Word} {c : Command} (h : decodeCommand w = .ok c) :
    encode c.toInstr = ⟨32, w.toNat⟩ := by
  rw [encode_toInstr, decodeCommand_eq_ok h]

/-- The records are the words with a legal KIND, RSV = 0, and no DATA on an RD (R56). -/
theorem decodeRecord_isOk_iff {w : Record} : (∃ i, decodeRecord w = .ok i) ↔
    Record.kind w ≠ 3#2 ∧ Record.rsv w = 0#2 ∧ (Record.kind w = 0#2 → Record.data w = 0#32) := by
  simp only [decodeRecord_eq_ok_iff]
  obtain h | h | h | h := recordKind_cases w <;> simp [h]

/-- Settles O2, by what the two decoders answer. -/
theorem recordsAreTheWellFormedWords : Obligations.RecordsAreTheWellFormedWords :=
  ⟨fun _ => decodeRecord_isOk_iff, fun _ _ => encode_of_decodeRecord, fun _ _ => encode_of_decodeCommand⟩

/-! ### Words and mnemonics of the spec -/

/-- Settles O4: each legal word is the encoding of its instruction, and the two others are refused. -/
theorem exampleWordsOfTheSpecDecode : Obligations.ExampleWordsOfTheSpecDecode := by
  have h := decodeOfEncodeGivesBackEveryInstruction
  exact ⟨h .reduce, h .check, by decide, h (.wr 0x010#12 0x00000001#32), h (.wr 0x0A0#12 0x00000009#32),
    h (.rd 0x008#12), h (.poll 0x008#12 0x00000002#32), by decide⟩

/-- Settles O5, by evaluation of the assembler on the closed lists. -/
theorem mnemonicsAssembleToTheirRecords : Obligations.MnemonicsAssembleToTheirRecords := by
  unfold Obligations.MnemonicsAssembleToTheirRecords
  decide

/-! ### Turns that run no instruction -/

section
variable {s : State} {ts : List Turn}

theorem step_of_host_turn (h : s.turns = .host :: ts) : step s = hostTurn { s with turns := ts } := by
  rw [step, State.takeTurn_of_cons h, agentTurn]

theorem step_of_engine_turn (h : s.turns = .engine :: ts) : step s = engineTurn { s with turns := ts } := by
  rw [step, State.takeTurn_of_cons h, agentTurn]

theorem hostTurn_of_end (h : s.program.length ≤ s.pos) : hostTurn s = .next s := by
  simp only [hostTurn, List.getElem?_eq_none h]

theorem hostTurn_of_no_record {w : Record} {e : DecodeError} (hw : s.program[s.pos]? = some w)
    (he : decodeRecord w = .error e) : hostTurn s = .refused (.notARecord e) := by
  simp only [hostTurn, hw, he]

theorem engineTurn_of_not_ready (h : s.ready = false) : engineTurn s = .next s.initStep :=
  if_pos h

theorem engineTurn_of_idle (hready : s.ready = true) (hidle : s.running = none) : engineTurn s = .next s := by
  simp [engineTurn, hready, hidle]

end

/-- Settles O8: each turn, taken from the front of the settled ones, answers the state without it or the refusal. -/
theorem turnsThatRunNoInstruction : Obligations.TurnsThatRunNoInstruction :=
  ⟨fun _ _ hturns hend => (step_of_host_turn hturns).trans (hostTurn_of_end hend),
   fun _ _ _ _ hturns hw he => (step_of_host_turn hturns).trans (hostTurn_of_no_record hw he),
   fun _ _ hturns hready hidle => (step_of_engine_turn hturns).trans (engineTurn_of_idle hready hidle)⟩

/-! ### WAIT -/

theorem exec_poll_of_locate {off : Offset} {reg : RegName} {j : Nat} (h : locate off = .ok (reg, j)) (mask : Word)
    (s : State) : exec (.poll off mask) s = .next
      (if readWord s reg j &&& mask = mask then (s.returning reg j).advance else s.returning reg j) := by
  simp only [exec, execPoll, busRead, h]
  rfl

/-- Bit 1 of STATUS is DONE (R24). -/
theorem statusWord_done (s : State) : statusWord s &&& 0x00000002#32 = 0x00000002#32 ↔ s.done = true := by
  have hbit : (statusWord s).getLsbD 1 = s.done := by
    simp only [statusWord, bit, BitVec.getLsbD_append, BitVec.getLsbD_ofBool]
    rfl
  rw [show 0x00000002#32 = BitVec.twoPow 32 1 by rfl, BitVec.and_twoPow, hbit]
  cases s.done <;> decide

/-- WAIT is `POLL STATUS, 0x00000002` (R65): it reads STATUS and goes on when DONE = 1. -/
theorem exec_wait (s : State) : exec (.poll 0x008#12 0x00000002#32) s = .next
    { s with rdata := statusWord s, pos := if s.done then s.pos + 1 else s.pos } := by
  rw [exec_poll_of_locate (reg := .status) (j := 0) (by decide),
    State.returning_of_not_free (readsFree_of_ne (by decide) s)]
  simp only [readWord, statusWord_done]
  split <;> rfl

theorem exec_wait_of_done {s : State} (h : s.done = true) : exec (.poll 0x008#12 0x00000002#32) s
    = .next { s with rdata := statusWord s, pos := s.pos + 1 } := by
  rw [exec_wait, h, if_pos rfl]

theorem exec_wait_of_not_done {s : State} (h : s.done = false) : exec (.poll 0x008#12 0x00000002#32) s
    = .next { s with rdata := statusWord s } := by
  rw [exec_wait, h, if_neg Bool.false_ne_true]

/-- The host is at a WAIT that nothing ends: no command has completed and none runs (R132). -/
structure State.HangsInWait (s : State) : Prop where
  done : s.done = false
  running : s.running = none
  record : s.program[s.pos]? = some 0x800800000002#48

/-- A turn of the host or the engine leaves a hanging host where it is. -/
theorem State.HangsInWait.step_stays {s : State} {turn : Turn} {ts : List Turn} (h : s.HangsInWait)
    (hturns : s.turns = turn :: ts) (hreset : turn ≠ .reset) :
    ∃ t, step s = .next t ∧ t.HangsInWait ∧ t.pos = s.pos ∧ t.turns = ts := by
  obtain ⟨hdone, hidle, hrec⟩ := h
  cases turn
  case host =>
    have hdec : decodeRecord 0x800800000002#48 = .ok (.poll 0x008#12 0x00000002#32) := by decide
    rw [step_of_host_record hturns hrec hdec]
    exact ⟨_, exec_wait_of_not_done hdone, ⟨hdone, hidle, hrec⟩, rfl, rfl⟩
  case engine =>
    rw [step_of_engine_turn hturns]
    obtain hready | hready := s.ready.eq_false_or_eq_true
    · exact ⟨_, engineTurn_of_idle hready hidle, ⟨hdone, hidle, hrec⟩, rfl, rfl⟩
    · exact ⟨_, engineTurn_of_not_ready hready, ⟨hdone, hidle, hrec⟩, rfl, rfl⟩
  case reset => contradiction

/-- No number of host and engine turns ends the hang (R132). -/
theorem State.HangsInWait.run_stays {s : State} (h : s.HangsInWait) (hreset : Turn.reset ∉ s.turns) :
    ∃ t, Sys2Proof.core.run s.turns.length s = .next t ∧ t.HangsInWait ∧ t.pos = s.pos := by
  induction hturns : s.turns generalizing s with
  | nil => exact ⟨s, rfl, h, rfl⟩
  | cons turn ts ih =>
    rw [hturns, List.mem_cons, not_or] at hreset
    obtain ⟨u, hstep, hu, hpos, rfl⟩ := h.step_stays hturns (Ne.symm hreset.1)
    obtain ⟨t, hrun, ht, htpos⟩ := ih hu hreset.2 rfl
    exact ⟨t, (run_next hstep _).trans hrun, ht, htpos.trans hpos⟩

/-- Settles O46: one iteration of WAIT by the DONE bit, and the hang by induction on the settled turns. -/
theorem waitCompletesOnDoneAndElseHangs : Obligations.WaitCompletesOnDoneAndElseHangs := by
  refine ⟨fun s hdone => ⟨_, exec_wait_of_done hdone⟩, fun s hdone => ⟨_, exec_wait_of_not_done hdone⟩, ?_⟩
  rintro s - hdone hidle hrec rfl hreset
  obtain ⟨t, hrun, ht, hpos⟩ := State.HangsInWait.run_stays ⟨hdone, hidle, hrec⟩ hreset
  exact ⟨t, hrun, hpos, ht.done⟩

end Sys2Proof.Machine

/-!
PROOFS of family 40: the reduction modulo P (O14, O15), the inverse for any modulus (O16, O17) and modulo P (O18). The
arithmetic stands in the laws of `reduce` and `modInverse`; what REDUCE and INV write is the result of a command.
-/

namespace Sys2Proof.Machine

/-! ### Values -/

theorem fieldPrime_cast : (fieldPrime : Int) = 2 ^ 255 - 19 := by decide

theorem bits256_toNat_of_lt {n : Nat} (h : n < 2 ^ 256) : (bits256 n).toNat = n := Nat.mod_eq_of_lt h

/-! ### Reduction -/

/-- The modulo is reached by adding P as often as it takes (R68). -/
theorem reduce_eq_of_add_mul {a : Int} {n : Nat} (hlo : 0 ≤ a + n * fieldPrime)
    (hhi : a + n * fieldPrime < fieldPrime) : (reduce a : Int) = a + n * fieldPrime := by
  rw [reduce_cast, ← Int.add_mul_emod_self_right a n, Int.emod_eq_of_lt hlo hhi]

/-- Settles O14, by the spec of `reduce` at the value of P. -/
theorem reduceIsTheEuclideanModulo : Obligations.ReduceIsTheEuclideanModulo := by
  unfold Obligations.ReduceIsTheEuclideanModulo
  rw [← fieldPrime_cast]
  exact fun a => ⟨reduce_lt a, reduce_cast a, fun _ => reduce_eq_of_add_mul⟩

theorem exec_reduce {s : State} {sn : Snapshot} (h : s.running = some ⟨.reduce, sn⟩) :
    exec .reduce s = .next { s with r := bits256 (reduce sn.a.toInt), done := true, running := none } :=
  exec_command_eq h

/-- Settles O15: the reduced value fits R. -/
theorem reduceCompletes : Obligations.ReduceCompletes := by
  intro s sn hrun
  have hfits : reduce sn.a.toInt < 2 ^ 256 := (reduce_lt _).trans (by decide)
  refine ⟨_, exec_reduce hrun, ?_⟩
  rw [bits256_toNat_of_lt hfits, reduce_cast, fieldPrime_cast]

/-! ### The inverse for any modulus -/

/-- Two reduced inverses of one operand are equal (R69). -/
theorem inverse_unique {a m x y : Nat} (hg : Nat.gcd a m = 1) (hx : x < m) (hy : y < m)
    (hax : (a * x) % m = 1 % m) (hay : (a * y) % m = 1 % m) : y = x :=
  have hcongr : a * y ≡ a * x [MOD m] := hay.trans hax.symm
  (hcongr.cancel_left_of_coprime (Nat.gcd_comm a m ▸ hg)).eq_of_lt_of_lt hy hx

section
variable {s : State} {sn : Snapshot}

theorem exec_inv_of_ok {x : Nat} (h : s.running = some ⟨.inv, sn⟩)
    (hx : modInverse (sn.a.extractLsb' 0 256).toNat sn.m.toNat = .ok x) :
    exec .inv s = .next { s with r := bits256 x, done := true, running := none } :=
  (exec_command_eq h).trans (by rw [commandResult, valU, hx]; rfl)

theorem exec_inv_of_error {e : FatalCode} (h : s.running = some ⟨.inv, sn⟩)
    (he : modInverse (sn.a.extractLsb' 0 256).toNat sn.m.toNat = .error e) :
    exec .inv s = .next { s with running := none, done := true, err := true, fatalCode := e.code } :=
  (exec_command_eq h).trans (by rw [commandResult, valU, he]; rfl)

end

/-- Settles O16: the inverse that `modInverse` answers fits R and is the only one in [0, m). -/
theorem invCompletesOnCoprimeOperands : Obligations.InvCompletesOnCoprimeOperands := by
  intro s sn hrun hm hg
  obtain ⟨x, hx, hlt, hmul⟩ := modInverse_coprime hm hg
  refine ⟨_, exec_inv_of_ok hrun hx, ?_⟩
  rw [bits256_toNat_of_lt (hlt.trans sn.m.isLt)]
  exact ⟨hlt, hmul, fun y hy hay => inverse_unique hg hlt hy hmul hay⟩

/-- Settles O17, by the two errors of `modInverse`. -/
theorem invFailsOnOtherOperands : Obligations.InvFailsOnOtherOperands := by
  intro s sn hrun
  refine ⟨fun hm => exec_inv_of_error (e := .badModulus) hrun ?_,
    fun hm hg => exec_inv_of_error (e := .nonInvertible) hrun (modInverse_not_coprime hm hg)⟩
  rw [hm, modInverse_zero]

/-! ### The inverse modulo P -/

/-- The inverse depends on its operand modulo m only (R69). -/
theorem modInverse_mod (a m : Nat) : modInverse (a % m) m = modInverse a m := by
  simp only [modInverse, Nat.mod_mod]

theorem invP_mod (a : Nat) : invP (a % fieldPrime) = invP a := modInverse_mod a fieldPrime

/-- Settles O18, from the inverse of the reduced operand. -/
theorem inverseModuloPExistsExactlyForNonzero : Obligations.InverseModuloPExistsExactlyForNonzero := by
  intro a
  rw [← invP_mod]
  refine ⟨fun h0 => h0 ▸ invP_zero, fun h0 => ?_⟩
  obtain ⟨x, hx, hlt, hmul⟩ := invP_of_lt h0 (Nat.mod_lt a (by decide))
  exact ⟨x, hx, hlt, by rwa [Nat.mod_mul_mod] at hmul⟩

end Sys2Proof.Machine

/-!
PROOFS of family 41: the addition law (O21 to O24), the point commands PADD and PDBL (O19, O20, O25), and what the
closure of the twisted Edwards curve gives for SMUL and DERIVE (O30, O37). Equations modulo P are carried to the field
`ZMod fieldPrime`, where the laws of the curve are stated.
-/

namespace Sys2Proof.Machine

/-! ### What an addition depends on -/

/-- The addition uses its points through `t` and the two numerators only (R73). -/
theorem pointAdd_congr {p q p' q' : Point} (ht : addT p q = addT p' q') (hx : addNumX p q = addNumX p' q')
    (hy : addNumY p q = addNumY p' q') : pointAdd p q = pointAdd p' q' := by
  simp only [pointAdd, addDenX, addDenY, ht, hx, hy]

theorem pointAdd_reducedPoint (p q : Point) : pointAdd (reducedPoint p) (reducedPoint q) = pointAdd p q := by
  apply pointAdd_congr
  · simp [addT, reducedPoint, Nat.mul_mod]
  · simp [addNumX, reducedPoint, Nat.mul_mod, Nat.add_mod]
  · simp [addNumY, reducedPoint, Nat.mul_mod, Nat.add_mod]

theorem pointAdd_comm (p q : Point) : pointAdd p q = pointAdd q p := by
  apply pointAdd_congr
  · simp only [addT]
    congr 1
    ring
  · simp only [addNumX, add_comm]
  · simp only [addNumY, mul_comm]

theorem invP_one : invP 1 = .ok 1 := by
  obtain ⟨x, hx, hlt, hmul⟩ := invP_of_lt one_ne_zero (by decide)
  rw [one_mul, Nat.mod_eq_of_lt hlt] at hmul
  rw [hx, hmul]

/-- With `t` = 0 both denominators are 1. -/
theorem pointAdd_of_addT_eq_zero {p q : Point} (h : addT p q = 0) : pointAdd p q = .ok ⟨addNumX p q, addNumY p q⟩ := by
  have hX : addDenX p q = 1 := by rw [addDenX, h]; decide
  have hY : addDenY p q = 1 := by rw [addDenY, h]; decide
  simp [pointAdd, hX, hY, invP_one, addNumX, addNumY]

theorem pointAdd_identity_left (q : Point) : pointAdd identityPoint q = .ok (reducedPoint q) := by
  rw [pointAdd_of_addT_eq_zero (by simp [addT, identityPoint])]
  simp [addNumX, addNumY, identityPoint, reducedPoint]

/-- Settles O21: `t` and the numerators are taken modulo P. -/
theorem pointAddReducesItsInputs : Obligations.PointAddReducesItsInputs := fun p q =>
  ⟨(pointAdd_reducedPoint p q).symm, fun _ => pointAdd_inField⟩

/-- Settles O22: on the right the identity is neutral because the addition commutes. -/
theorem pointAddHasAnIdentityAndCommutes : Obligations.PointAddHasAnIdentityAndCommutes :=
  ⟨fun q => ⟨pointAdd_identity_left q, (pointAdd_comm q _).trans (pointAdd_identity_left q)⟩, pointAdd_comm⟩

/-! ### The addition law in the field -/

theorem productT_cast (p q : Point) :
    (productT p q : ZMod fieldPrime) = ((curveD : Int) : ZMod fieldPrime) * p.x * q.x * p.y * q.y := by
  simp [productT]

/-- A denominator is 0 exactly when `t` is -1 or 1 in the field (R73). -/
theorem denominatorZero_iff (p q : Point) : denominatorZero p q ↔
    (1 + productT p q : ZMod fieldPrime) = 0 ∨ (1 - productT p q : ZMod fieldPrime) = 0 := by
  rw [denominatorZero, emod_fieldPrime_eq_zero_iff, emod_fieldPrime_eq_zero_iff]
  push_cast
  rfl

/-- The two equations of the addition law in the field (R73). -/
theorem IsPointSum.field_laws {p q r : Point} (h : IsPointSum p q r) :
    (r.x : ZMod fieldPrime) * (1 + productT p q) = p.x * q.y + q.x * p.y ∧
      (r.y : ZMod fieldPrime) * (1 - productT p q) = p.y * q.y + p.x * q.x := by
  have hx := (ZMod.intCast_eq_intCast_iff' _ _ _).2 h.x_law
  have hy := (ZMod.intCast_eq_intCast_iff' _ _ _).2 h.y_law
  push_cast at hx hy
  exact ⟨hx, hy⟩

/-- Doubling has no zero denominator (R79). -/
theorem not_denominatorZero_self (p : Point) : ¬ denominatorZero p p := by
  have := Fact.mk Laws.fieldPrime_prime
  obtain ⟨i, hi⟩ := exists_sq_eq_neg_one
  obtain ⟨hx, hy⟩ := Laws.edwards_double_ne (x := (p.x : ZMod fieldPrime)) (y := p.y) hi Laws.curveD_not_square
  rw [denominatorZero_iff, productT_cast]
  exact not_or.2 ⟨hx, hy⟩

theorem two_ne_zero_field : (2 : ZMod fieldPrime) ≠ 0 := by decide +kernel

section Curve
variable {p q r : Point}

/-- Two points of the curve have no zero denominator (R76). -/
theorem not_denominatorZero_of_curve (hp : SatisfiesCurve p true) (hq : SatisfiesCurve q true) :
    ¬ denominatorZero p q := by
  have := Fact.mk Laws.fieldPrime_prime
  obtain ⟨i, hi⟩ := exists_sq_eq_neg_one
  rw [satisfiesCurve_edwards_iff] at hp hq
  have hne := Laws.edwards_product_sq_ne_one two_ne_zero_field hi Laws.curveD_not_square hp hq
  rw [denominatorZero_iff, productT_cast]
  rintro (h | h)
  · exact hne (by rw [eq_neg_of_add_eq_zero_right h, neg_one_sq])
  · exact hne (by rw [← sub_eq_zero.1 h, one_pow])

/-- The sum of two points of the curve lies on the curve (R76). -/
theorem IsPointSum.satisfiesCurve (hsum : IsPointSum p q r) (hp : SatisfiesCurve p true) (hq : SatisfiesCurve q true) :
    SatisfiesCurve r true := by
  have := Fact.mk Laws.fieldPrime_prime
  have hden := not_denominatorZero_of_curve hp hq
  obtain ⟨hx, hy⟩ := hsum.field_laws
  rw [denominatorZero_iff, not_or] at hden
  obtain ⟨hdx, hdy⟩ := hden
  rw [satisfiesCurve_edwards_iff] at hp hq ⊢
  have hcleared := Laws.edwards_sum_equation hp hq
  rw [← productT_cast, ← hx, ← hy] at hcleared
  refine mul_right_cancel₀ (mul_ne_zero (pow_ne_zero 2 hdx) (pow_ne_zero 2 hdy)) ?_
  linear_combination hcleared

/-- Addition is total on the twisted Edwards curve (R76). -/
theorem pointAdd_of_curve (hp : SatisfiesCurve p true) (hq : SatisfiesCurve q true) :
    ∃ r, pointAdd p q = .ok r ∧ IsPointSum p q r ∧ SatisfiesCurve r true := by
  obtain ⟨r, hr, hsum⟩ := pointAdd_ok (not_denominatorZero_of_curve hp hq)
  exact ⟨r, hr, hsum, hsum.satisfiesCurve hp hq⟩

end Curve

/-- Settles O23, by the completeness and the closure of the law over the field. -/
theorem additionOnTheCurveNeverFails : Obligations.AdditionOnTheCurveNeverFails := fun _ _ => pointAdd_of_curve

/-- Settles O24: D is no square modulo P and -1 is one. -/
theorem doublingNeverFails : Obligations.DoublingNeverFails := fun p =>
  (pointAdd_ok (not_denominatorZero_self p)).imp fun _ h => h.1

/-! ### Commands that end with a point -/

/-- RX and RY hold field elements without loss (R3, R30). -/
theorem Point.InField.bits256_toNat {p : Point} (h : p.InField) :
    (bits256 p.x).toNat = p.x ∧ (bits256 p.y).toNat = p.y := by
  have hP : fieldPrime < 2 ^ 256 := by decide
  exact ⟨bits256_toNat_of_lt (h.1.trans hP), bits256_toNat_of_lt (h.2.trans hP)⟩

section Commands
variable {c : Command} {s : State} {sn : Snapshot}

/-- A point command whose operation answers a point of the field leaves that point in RX and RY (R77, R78, R83). -/
theorem exec_point_ok {p : Point} (hrun : s.running = some ⟨c, sn⟩)
    (hres : commandResult s.basePoint sn c = pointResult (.ok p)) (hp : p.InField) :
    ∃ x y : Wide, exec c.toInstr s = .next { s with rx := x, ry := y, done := true, running := none } ∧
      ⟨x.toNat, y.toNat⟩ = p := by
  obtain ⟨hx, hy⟩ := hp.bits256_toNat
  exact ⟨bits256 p.x, bits256 p.y, (exec_command_eq hrun).trans (by rw [hres]; rfl), by rw [hx, hy]⟩

/-- A point command whose operation fails locks the core (R108). -/
theorem exec_point_error {e : FatalCode} (hrun : s.running = some ⟨c, sn⟩)
    (hres : commandResult s.basePoint sn c = pointResult (.error e)) :
    exec c.toInstr s = .next { s with running := none, done := true, err := true, fatalCode := e.code } :=
  (exec_command_eq hrun).trans (by rw [hres]; rfl)

/-- PADD and PDBL complete with the sum of their two points when no denominator is 0. -/
theorem exec_sum_ok {p q : Point} (hrun : s.running = some ⟨c, sn⟩)
    (hres : commandResult s.basePoint sn c = pointResult (pointAdd p q)) (hden : ¬ denominatorZero p q) :
    ∃ x y : Wide, exec c.toInstr s = .next { s with rx := x, ry := y, done := true, running := none } ∧
      IsPointSum p q ⟨x.toNat, y.toNat⟩ := by
  obtain ⟨r, hr, hsum⟩ := pointAdd_ok hden
  obtain ⟨x, y, hexec, rfl⟩ := exec_point_ok hrun (hres.trans (by rw [hr])) (pointAdd_inField hr)
  exact ⟨x, y, hexec, hsum⟩

end Commands

/-- Settles O19, by the spec of `pointAdd` without a zero denominator. -/
theorem paddCompletesOnNonzeroDenominators : Obligations.PaddCompletesOnNonzeroDenominators :=
  fun _ _ hrun => exec_sum_ok hrun rfl

/-- Settles O20, by the spec of `pointAdd` with a zero denominator. -/
theorem paddFailsOnZeroDenominator : Obligations.PaddFailsOnZeroDenominator :=
  fun _ _ hrun hden => exec_point_error hrun (congrArg pointResult (pointAdd_error hden))

/-- Settles O25: doubling has no zero denominator. -/
theorem pdblCompletes : Obligations.PdblCompletes :=
  fun _ sn hrun => exec_sum_ok hrun rfl (not_denominatorZero_self sn.point1)

/-! ### Scalar multiples of a point of the curve -/

theorem identityPoint_satisfiesCurve : SatisfiesCurve identityPoint true := by
  simp [SatisfiesCurve, identityPoint]

theorem addIfOdd_of_curve {k : Nat} {result addend : Point} (hres : SatisfiesCurve result true)
    (hadd : SatisfiesCurve addend true) : ∃ r, addIfOdd k result addend = .ok r ∧ SatisfiesCurve r true := by
  unfold addIfOdd
  split
  · obtain ⟨r, hr, -, hcurve⟩ := pointAdd_of_curve hres hadd
    exact ⟨r, hr, hcurve⟩
  · exact ⟨result, rfl, hres⟩

/-- The loop of R80 stays on the curve, so none of its additions fails. -/
theorem scalarLoop_of_curve {fuel k : Nat} {result addend : Point} (hres : SatisfiesCurve result true)
    (hadd : SatisfiesCurve addend true) : ∃ r, scalarLoop fuel k result addend = .ok r ∧ SatisfiesCurve r true := by
  induction fuel generalizing k result addend with
  | zero => exact ⟨result, rfl, hres⟩
  | succ n ih =>
    obtain ⟨sum, hsum, hsumCurve⟩ := addIfOdd_of_curve (k := k) hres hadd
    obtain ⟨double, hdouble, -, hdoubleCurve⟩ := pointAdd_of_curve hadd hadd
    simp only [scalarLoop, hsum, hdouble]
    split
    · exact ⟨result, rfl, hres⟩
    · exact ih hsumCurve hdoubleCurve

theorem scalarMul_of_curve {p : Point} (k : Nat) (hp : SatisfiesCurve p true) :
    ∃ r, scalarMul k p = .ok r ∧ SatisfiesCurve r true ∧ r.InField := by
  obtain ⟨r, hr, hcurve⟩ := scalarLoop_of_curve (fuel := k) (k := k) identityPoint_satisfiesCurve hp
  exact ⟨r, hr, hcurve, scalarMul_inField hr⟩

/-- Settles O30, by the loop's invariant. -/
theorem smulOfACurvePointCompletes : Obligations.SmulOfACurvePointCompletes := by
  intro s sn hrun hcurve
  obtain ⟨r, hr, hrCurve, hrField⟩ := scalarMul_of_curve sn.k.toNat hcurve
  obtain ⟨x, y, hexec, rfl⟩ := exec_point_ok hrun (congrArg pointResult hr) hrField
  exact ⟨x, y, hexec, hrCurve, hrField⟩

/-! ### DERIVE from a base point of the curve -/

theorem natCast_fieldPrime_sub_one : ((fieldPrime - 1 : Nat) : ZMod fieldPrime) = -1 := by
  rw [Nat.cast_pred (by decide), ZMod.natCast_self, zero_sub]

/-- The membership test decides the equation that the model selects (R90). -/
theorem pointOnCurve_iff (p : Point) (model : Bool) : pointOnCurve p model = true ↔ SatisfiesCurve p model := by
  cases model with
  | false =>
    simp only [pointOnCurve, SatisfiesCurve, Bool.false_eq_true, if_false, beq_iff_eq]
    norm_cast
  | true =>
    rw [satisfiesCurve_edwards_iff]
    simp only [pointOnCurve, if_true, beq_iff_eq]
    rw [← ZMod.natCast_eq_natCast_iff', Nat.cast_add, Nat.cast_mul, natCast_fieldPrime_sub_one]
    push_cast
    constructor <;> intro h <;> linear_combination h

theorem scalarMul_zero (p : Point) : scalarMul 0 p = .ok identityPoint := rfl

/-- One iteration adds the point to the identity; its doubling, which is not used, cannot fail (R79, R84). -/
theorem scalarMul_one (p : Point) : scalarMul 1 p = .ok (reducedPoint p) := by
  obtain ⟨double, hdouble, -⟩ := pointAdd_ok (not_denominatorZero_self p)
  simp [scalarMul, scalarLoop, addIfOdd, pointAdd_identity_left, hdouble]

/-- A DERIVE whose scalar multiple passes the membership test publishes it (R92). -/
theorem exec_derive_of_curve {s : State} {sn : Snapshot} {q : Point} (hrun : s.running = some ⟨.derive, sn⟩)
    (hq : scalarMul sn.k.toNat s.basePoint = .ok q) (hcurve : SatisfiesCurve q sn.vmodel) :
    exec .derive s = .next { s with
      rx := bits256 q.x, ry := bits256 q.y, onCurve := true, done := true, running := none } :=
  (exec_command_eq hrun).trans (by
    simp only [commandResult, valU, hq, (pointOnCurve_iff q sn.vmodel).2 hcurve, if_true]
    rfl)

/-- Settles O37: a scalar multiple of a point of the curve passes the membership test. -/
theorem deriveFromACurveBasePointCompletes : Obligations.DeriveFromACurveBasePointCompletes := by
  intro s sn hrun hmodel hbase
  obtain ⟨q, hq, hcurve, hfield⟩ := scalarMul_of_curve sn.k.toNat hbase
  obtain ⟨hx, hy⟩ := hfield.bits256_toNat
  refine ⟨_, _, exec_derive_of_curve hrun hq (hmodel ▸ hcurve), ?_⟩
  rw [hx, hy]
  refine ⟨hcurve, fun hk => ?_, fun hk => ?_⟩
  · rw [hk, scalarMul_zero] at hq
    injection hq with hq
    exact hq ▸ ⟨rfl, rfl⟩
  · rw [hk, scalarMul_one] at hq
    injection hq with hq
    exact hq ▸ ⟨rfl, rfl⟩

end Sys2Proof.Machine

/-!
PROOFS of family 42: the loop of R80, its bound (O26) and its recursion (O27), the scalars with one bit set (O28), and
SMUL for every point (O29). Since a doubling never fails (R79), an iteration fails only in the addition to the result
(`scalarLoop_succ`); every other lemma about the loop follows from that equation.
-/

namespace Sys2Proof.Machine

/-! ### One iteration and the bound -/

theorem scalarLoop_zero (fuel : Nat) (result addend : Point) : scalarLoop fuel 0 result addend = .ok result := by
  cases fuel <;> rfl

section Loop
variable {fuel k : Nat} {result addend double : Point}

theorem scalarLoop_succ (hk : k ≠ 0) (hdouble : pointAdd addend addend = .ok double) :
    scalarLoop (fuel + 1) k result addend
      = (addIfOdd k result addend).bind fun sum => scalarLoop fuel (k / 2) sum double := by
  rw [scalarLoop, if_neg hk, hdouble]
  cases addIfOdd k result addend <;> rfl

/-- Two bounds of at least bitlen(k) give the same result (R81). -/
theorem scalarLoop_eq_of_lt_two_pow {fuel' : Nat} (h : k < 2 ^ fuel) (h' : k < 2 ^ fuel') :
    scalarLoop fuel k result addend = scalarLoop fuel' k result addend := by
  induction fuel generalizing fuel' k result addend with
  | zero =>
    obtain rfl : k = 0 := Nat.lt_one_iff.1 h
    rw [scalarLoop_zero, scalarLoop_zero]
  | succ n ih =>
    rcases eq_or_ne k 0 with rfl | hk
    · rw [scalarLoop_zero, scalarLoop_zero]
    cases fuel' with
    | zero => exact absurd (Nat.lt_one_iff.1 h') hk
    | succ m =>
      obtain ⟨double, hdouble⟩ := doublingNeverFails addend
      rw [scalarLoop_succ hk hdouble, scalarLoop_succ hk hdouble]
      congr 1
      funext sum
      exact ih (Nat.div_lt_of_lt_mul (Nat.pow_succ' ▸ h)) (Nat.div_lt_of_lt_mul (Nat.pow_succ' ▸ h'))

/-- One iteration of the loop, with the model's bounds before and after it (R80). -/
theorem scalarLoop_self (hk : k ≠ 0) (hdouble : pointAdd addend addend = .ok double) :
    scalarLoop k k result addend
      = (addIfOdd k result addend).bind fun sum => scalarLoop (k / 2) (k / 2) sum double := by
  rw [scalarLoop_eq_of_lt_two_pow (fuel' := k + 1) k.lt_two_pow_self (k.lt_succ_self.trans (k + 1).lt_two_pow_self),
    scalarLoop_succ hk hdouble]
  congr 1
  funext sum
  exact scalarLoop_eq_of_lt_two_pow ((Nat.div_le_self k 2).trans_lt k.lt_two_pow_self) (k / 2).lt_two_pow_self

theorem scalarLoop_self_even (hk : k ≠ 0) (heven : k % 2 = 0) (hdouble : pointAdd addend addend = .ok double) :
    scalarLoop k k result addend = scalarLoop (k / 2) (k / 2) result double := by
  rw [scalarLoop_self hk hdouble, addIfOdd, if_neg (by omega)]
  rfl

theorem scalarLoop_self_odd (hodd : k % 2 = 1) (hdouble : pointAdd addend addend = .ok double) :
    scalarLoop k k result addend
      = (pointAdd result addend).bind fun sum => scalarLoop (k / 2) (k / 2) sum double := by
  rw [scalarLoop_self (by omega) hdouble, addIfOdd, if_pos hodd]

end Loop

/-- Settles O26: k is below 2^k, so the model's bound is one of the bounds that are enough. -/
theorem scalarLoopNeedsAtMostBitLengthIterations : Obligations.ScalarLoopNeedsAtMostBitLengthIterations :=
  fun k _ _ _ h => scalarLoop_eq_of_lt_two_pow h k.lt_two_pow_self

/-! ### Even scalars and small scalars -/

section Scalars
variable {p double : Point}

theorem scalarMul_two_mul (k : Nat) (hdouble : pointAdd p p = .ok double) :
    scalarMul (2 * k) p = scalarMul k double := by
  rcases eq_or_ne k 0 with rfl | hk
  · rfl
  · have hhalf : 2 * k / 2 = k := Nat.mul_div_cancel_left k two_pos
    rw [scalarMul, scalarLoop_self_even (by omega) (Nat.mul_mod_right 2 k) hdouble, hhalf, scalarMul]

theorem Point.InField.reducedPoint_eq (h : p.InField) : reducedPoint p = p := by
  rw [reducedPoint, Nat.mod_eq_of_lt h.1, Nat.mod_eq_of_lt h.2]

theorem scalarMul_two (p : Point) : scalarMul 2 p = pointAdd p p := by
  obtain ⟨double, hdouble⟩ := doublingNeverFails p
  have hhalf : scalarMul 2 p = scalarMul 1 double := scalarMul_two_mul 1 hdouble
  rw [hhalf, scalarMul_one, (pointAdd_inField hdouble).reducedPoint_eq, hdouble]

/-- The second iteration of 3 adds the double to the reduced point; its own doubling is not used (R84). -/
theorem scalarMul_three (hdouble : pointAdd p p = .ok double) :
    scalarMul 3 p = pointAdd (reducedPoint p) double := by
  obtain ⟨fourfold, hfourfold⟩ := doublingNeverFails double
  calc scalarMul 3 p
      = (pointAdd identityPoint p).bind fun sum => scalarLoop 1 1 sum double := scalarLoop_self_odd rfl hdouble
    _ = scalarLoop 1 1 (reducedPoint p) double := by rw [pointAdd_identity_left]; rfl
    _ = (pointAdd (reducedPoint p) double).bind .ok := scalarLoop_self_odd rfl hfourfold
    _ = pointAdd (reducedPoint p) double := by cases pointAdd (reducedPoint p) double <;> rfl

end Scalars

/-- Settles O27: one iteration by the parity of k, and the small scalars. -/
theorem scalarMulFollowsItsRecursion : Obligations.ScalarMulFollowsItsRecursion := by
  refine ⟨fun _ _ => rfl, fun _ _ => rfl, fun k result addend hk => ?_, fun k _ _ => scalarMul_two_mul k,
    fun p hx hy => ?_⟩
  · obtain ⟨double, hdouble⟩ := doublingNeverFails addend
    refine ⟨double, hdouble, fun heven => scalarLoop_self_even hk heven hdouble, fun hodd => ?_⟩
    rw [scalarLoop_self_odd hodd hdouble]
    exact ⟨fun sum hsum => by rw [hsum]; rfl, fun e herr => by rw [herr]; rfl⟩
  · have hred : reducedPoint p = p := Point.InField.reducedPoint_eq ⟨hx, hy⟩
    refine ⟨scalarMul_zero p, by rw [scalarMul_one, hred], scalarMul_two p, fun d hd => ?_⟩
    have hthree : scalarMul 3 p = pointAdd p d := by rw [scalarMul_three hd, hred]
    exact ⟨hthree, hthree.trans (pointAdd_comm p d)⟩

/-! ### Powers of two -/

section Doublings
variable {p double : Point}

/-- The first of the doublings can be taken apart as well as the last. -/
theorem doublings_succ_of_double (n : Nat) (hdouble : pointAdd p p = .ok double) :
    doublings (n + 1) p = doublings n double := by
  induction n with
  | zero => exact hdouble
  | succ n ih => rw [doublings, ih, doublings]

/-- Doublings never fail (R79). -/
theorem doublings_ok (n : Nat) (p : Point) : ∃ q, doublings n p = .ok q := by
  induction n with
  | zero => exact ⟨p, rfl⟩
  | succ n ih =>
    obtain ⟨q, hq⟩ := ih
    obtain ⟨double, hdouble⟩ := doublingNeverFails q
    exact ⟨double, by rw [doublings, hq]; exact hdouble⟩

theorem scalarMul_two_pow (j : Nat) (p : Point) : scalarMul (2 ^ j) p = doublings j (reducedPoint p) := by
  induction j generalizing p with
  | zero => exact scalarMul_one p
  | succ j ih =>
    obtain ⟨double, hdouble⟩ := doublingNeverFails p
    calc scalarMul (2 ^ (j + 1)) p
        = scalarMul (2 ^ j) double := by rw [Nat.pow_succ', scalarMul_two_mul _ hdouble]
      _ = doublings j double := by rw [ih, (pointAdd_inField hdouble).reducedPoint_eq]
      _ = doublings (j + 1) (reducedPoint p) :=
        (doublings_succ_of_double j ((pointAdd_reducedPoint p p).trans hdouble)).symm

end Doublings

/-- Settles O28: each even half of the scalar is one doubling, and doublings never fail. -/
theorem powerOfTwoScalarsNeverFail : Obligations.PowerOfTwoScalarsNeverFail := by
  intro p j
  obtain ⟨q, hq⟩ := doublings_ok j (reducedPoint p)
  exact ⟨scalarMul_zero p, q, hq, (scalarMul_two_pow j p).trans hq⟩

/-! ### SMUL for any point -/

theorem addIfOdd_error_code {k : Nat} {result addend : Point} {e : FatalCode}
    (h : addIfOdd k result addend = .error e) : e = .nonInvertible := by
  unfold addIfOdd at h
  split at h
  · exact pointAdd_error_code h
  · cases h

/-- The loop fails only in an addition (R82). -/
theorem scalarLoop_error_code {fuel k : Nat} {result addend : Point} {e : FatalCode}
    (h : scalarLoop fuel k result addend = .error e) : e = .nonInvertible := by
  induction fuel generalizing k result addend with
  | zero => cases h
  | succ n ih =>
    rcases eq_or_ne k 0 with rfl | hk
    · cases h
    obtain ⟨double, hdouble⟩ := doublingNeverFails addend
    rw [scalarLoop_succ hk hdouble] at h
    cases hsum : addIfOdd k result addend with
    | error e' =>
      rw [hsum] at h
      injection h with h
      exact h ▸ addIfOdd_error_code hsum
    | ok sum =>
      rw [hsum] at h
      exact ih h

/-- A SMUL whose scalar multiple exists publishes it, for a point on or off the curve (R83, R85). -/
theorem exec_smul_of_ok {s : State} {sn : Snapshot} {q : Point} (hrun : s.running = some ⟨.smul, sn⟩)
    (hq : scalarMul sn.k.toNat sn.point1 = .ok q) :
    exec .smul s = .next { s with rx := bits256 q.x, ry := bits256 q.y, done := true, running := none } :=
  (exec_command_eq hrun).trans (by rw [commandResult, valU, hq]; rfl)

/-- Settles O29: SMUL writes the result of the loop, whose only error is that of an addition. -/
theorem smulWritesTheScalarMultiple : Obligations.SmulWritesTheScalarMultiple := by
  refine fun s sn hrun => ⟨fun q => exec_smul_of_ok hrun, fun e he => ?_⟩
  obtain rfl : e = .nonInvertible := scalarLoop_error_code he
  exact ⟨rfl, exec_point_error hrun (congrArg pointResult he)⟩

end Sys2Proof.Machine

/-!
PROOFS of family 43: the clamped integer (O32), CLAMP (O31, O33), CHECK (O34) and DERIVE (O35, O36, O38). The clamped
integer is taken apart into its first byte, the 30 bytes between and its last byte; its range and its fixed bits are
arithmetic on these three.
-/

namespace Sys2Proof.Machine

/-! ### Bytes of a big-endian integer -/

section BigEndian
variable {byte : Nat → BitVec 8} {n : Nat}

theorem bigEndian_lt : bigEndian byte n < 256 ^ n := by
  induction n with
  | zero => exact Nat.one_pos
  | succ n ih =>
    rw [bigEndian, Nat.pow_succ]
    omega

/-- The first byte is the most significant one (R87). -/
theorem bigEndian_succ_first :
    bigEndian byte (n + 1) = (byte 0).toNat * 256 ^ n + bigEndian (fun i => byte (i + 1)) n := by
  induction n with
  | zero => simp [bigEndian]
  | succ n ih =>
    rw [bigEndian, ih, bigEndian, Nat.pow_succ]
    ring

/-- Byte i of n stands at weight 256^(n - 1 - i) (R87). -/
theorem bigEndian_div_mod {i : Nat} (h : i < n) : bigEndian byte n / 256 ^ (n - 1 - i) % 256 = (byte i).toNat := by
  induction n with
  | zero => cases h
  | succ n ih =>
    rw [bigEndian]
    obtain hlt | rfl := Nat.lt_succ_iff_lt_or_eq.1 h
    · have hhead : (bigEndian byte n * 256 + (byte n).toNat) / 256 = bigEndian byte n := by omega
      rw [show n + 1 - 1 - i = n - 1 - i + 1 by omega, Nat.pow_succ', ← Nat.div_div_eq_div_mul, hhead, ih hlt]
    · rw [Nat.add_sub_cancel, Nat.sub_self, Nat.pow_zero, Nat.div_one]
      omega

end BigEndian

/-! ### The clamped integer -/

theorem clampedByte_first (seed : Wide) : clampedByte seed 0 = seedByte seed 0 &&& 0xF8#8 := rfl

theorem clampedByte_last (seed : Wide) : clampedByte seed 31 = (seedByte seed 31 &&& 0x7F#8) ||| 0x40#8 := rfl

theorem clampedByte_middle (seed : Wide) {i : Nat} (hlo : 1 ≤ i) (hhi : i ≤ 30) :
    clampedByte seed i = seedByte seed i := by
  rw [clampedByte, if_neg (by omega), if_neg (by omega)]

theorem clampRaw_lt (seed : Wide) : clampRaw seed < 2 ^ 256 := bigEndian_lt

theorem bits256_clampRaw_toNat (seed : Wide) : (bits256 (clampRaw seed)).toNat = clampRaw seed :=
  bits256_toNat_of_lt (clampRaw_lt seed)

/-- The bytes of R after a CLAMP are the clamped bytes (R87, R89). -/
theorem extractLsb'_clampRaw (seed : Wide) {i : Nat} (h : i < 32) :
    (bits256 (clampRaw seed)).extractLsb' (8 * (31 - i)) 8 = clampedByte seed i := by
  apply BitVec.eq_of_toNat_eq
  rw [BitVec.extractLsb'_toNat, bits256_clampRaw_toNat, Nat.shiftRight_eq_div_pow, Nat.pow_mul]
  exact bigEndian_div_mod h

/-- The mask 0xF8 clears the three lowest bits and no other (R87). -/
theorem firstMask_toNat (b : BitVec 8) : (b &&& 0xF8#8).toNat % 8 = 0 ∧ (b &&& 0xF8#8).toNat ≤ b.toNat
    ∧ b.toNat < (b &&& 0xF8#8).toNat + 8 := by
  revert b
  decide

/-- The masks 0x7F and 0x40 leave a byte in [64, 128) (R87). -/
theorem lastMask_toNat (b : BitVec 8) :
    64 ≤ (b &&& 0x7F#8 ||| 0x40#8).toNat ∧ (b &&& 0x7F#8 ||| 0x40#8).toNat < 128 := by
  revert b
  decide

/-- The clamped integer by its first byte, the 30 bytes between and its last byte (R87). -/
theorem clampRaw_eq (seed : Wide) : ∃ first middle last : Nat,
    clampRaw seed = first * 2 ^ 248 + middle * 256 + last
      ∧ (first % 8 = 0 ∧ first ≤ (seedByte seed 0).toNat ∧ (seedByte seed 0).toNat < first + 8)
      ∧ middle < 2 ^ 240 ∧ 64 ≤ last ∧ last < 128 := by
  refine ⟨_, bigEndian (fun i => clampedByte seed (i + 1)) 30, _, ?_, firstMask_toNat (seedByte seed 0), bigEndian_lt,
    lastMask_toNat (seedByte seed 31)⟩
  rw [clampRaw, bigEndian, bigEndian_succ_first, clampedByte_first, clampedByte_last]
  ring

theorem clampRaw_le (seed : Wide) :
    clampRaw seed ≤ 0xF8FFFFFFFFFFFFFFFFFFFFFFFFFFFFFFFFFFFFFFFFFFFFFFFFFFFFFFFFFFFF7F := by
  obtain ⟨first, middle, last, hraw, ⟨hmod, hle, -⟩, hmiddle, -, hlast⟩ := clampRaw_eq seed
  have hfirst : first ≤ 0xF8 := by
    have := (seedByte seed 0).isLt
    omega
  omega

theorem clampRaw_lt_two_mul_fieldPrime (seed : Wide) : clampRaw seed < 2 * fieldPrime :=
  (clampRaw_le seed).trans_lt (by decide)

/-- Byte 0 of the seed decides on which side of P the clamped integer lies (R88). -/
theorem clampRaw_lt_fieldPrime {seed : Wide} (h : (seedByte seed 0).toNat < 0x80) : clampRaw seed < fieldPrime := by
  obtain ⟨first, middle, last, hraw, ⟨hmod, hle, -⟩, hmiddle, -, hlast⟩ := clampRaw_eq seed
  have hfirst : first ≤ 0x78 := by omega
  rw [fieldPrime]
  omega

theorem two_pow_le_clampRaw {seed : Wide} (h : 0x80 ≤ (seedByte seed 0).toNat) : 2 ^ 255 ≤ clampRaw seed := by
  obtain ⟨first, middle, last, hraw, ⟨hmod, -, hlt⟩, -⟩ := clampRaw_eq seed
  have hfirst : 0x80 ≤ first := by omega
  omega

/-- Below 2P the reduction takes P away at most once (R88). -/
theorem clampKey_add_fieldPrime {seed : Wide} (h : fieldPrime ≤ clampRaw seed) :
    clampKey seed + fieldPrime = clampRaw seed := by
  have hlt := clampRaw_lt_two_mul_fieldPrime seed
  rw [clampKey, Nat.mod_eq_sub_mod h, Nat.mod_eq_of_lt (by omega), Nat.sub_add_cancel h]

/-- The lowest byte of P is not 0, so taking P away changes the lowest byte. -/
theorem mod_ne_of_add_fieldPrime {key raw : Nat} (h : key + fieldPrime = raw) : key % 256 ≠ raw % 256 := by
  rw [fieldPrime] at h
  omega

/-- P is at least 2^248, so taking P away lowers the highest byte. -/
theorem div_ne_of_add_fieldPrime {key raw : Nat} (h : key + fieldPrime = raw) : key / 2 ^ 248 ≠ raw / 2 ^ 248 := by
  rw [fieldPrime] at h
  omega

/-- Settles O32: the fixed bits are read off the parts of the clamped integer, and byte 0 decides what the reduction
does. -/
theorem clampedIntegerIsBelowTwicePrime : Obligations.ClampedIntegerIsBelowTwicePrime := by
  intro seed
  obtain ⟨first, middle, last, hraw, ⟨hmod, -⟩, hmiddle, hlo, hlast⟩ := clampRaw_eq seed
  have htop : clampRaw seed / 2 ^ 248 = first := by omega
  refine ⟨by omega, clampRaw_le seed, clampRaw_lt_two_mul_fieldPrime seed, htop ▸ hmod, by omega, by omega,
    fun hsmall => ?_, fun hlarge => ?_⟩
  · have hlt : clampRaw seed < fieldPrime := clampRaw_lt_fieldPrime hsmall
    exact ⟨hlt, Nat.mod_eq_of_lt hlt⟩
  · have hge : 2 ^ 255 ≤ clampRaw seed := two_pow_le_clampRaw hlarge
    have hkey := clampKey_add_fieldPrime (hge.trans' (by decide))
    exact ⟨hge, hkey, mod_ne_of_add_fieldPrime hkey, div_ne_of_add_fieldPrime hkey⟩

/-! ### CLAMP -/

section Clamp
variable {s : State} {sn : Snapshot}

theorem exec_clamp_of_valid (hrun : s.running = some ⟨.clamp, sn⟩) (hvalid : sn.seedValid = true)
    (hfail : sn.seedFail = false) : exec .clamp s = .next { s with
      r := bits256 (clampRaw sn.seed), k := bits256 (clampKey sn.seed), seed := 0#256, seedValid := false
      done := true, running := none } :=
  (exec_command_eq hrun).trans (by rw [commandResult, hvalid, hfail]; rfl)

theorem exec_clamp_of_invalid (hrun : s.running = some ⟨.clamp, sn⟩)
    (h : sn.seedFail = true ∨ sn.seedValid = false) :
    exec .clamp s = .next { s with running := none, done := true, err := true, fatalCode := 0x04#8 } := by
  have hcond : (sn.seedFail || !sn.seedValid) = true := by simpa using h
  exact (exec_command_eq hrun).trans (by rw [commandResult, hcond]; rfl)

end Clamp

/-- Settles O33: each of the two reasons decides the test of SEED_CTRL. -/
theorem clampFailsWithoutAValidSeed : Obligations.ClampFailsWithoutAValidSeed := fun _ _ => exec_clamp_of_invalid

/-- Settles O31: the bytes of R are the clamped bytes, and both integers fit their registers. -/
theorem clampCompletesOnAValidSeed : Obligations.ClampCompletesOnAValidSeed := by
  intro s sn hrun hvalid hfail
  have hkey : clampKey sn.seed < 2 ^ 256 := (Nat.mod_le _ _).trans_lt (clampRaw_lt sn.seed)
  refine ⟨_, _, exec_clamp_of_valid hrun hvalid hfail, extractLsb'_clampRaw sn.seed (i := 0) (by decide),
    extractLsb'_clampRaw sn.seed (i := 31) (by decide), fun i hlo hhi => ?_, ?_⟩
  · rw [extractLsb'_clampRaw sn.seed (by omega), clampedByte_middle sn.seed hlo hhi, seedByte]
  · rw [bits256_toNat_of_lt hkey, bits256_clampRaw_toNat]
    rfl

/-! ### CHECK -/

/-- Settles O34: the membership test decides the equation. -/
theorem checkCompletes : Obligations.CheckCompletes := by
  intro s sn hrun
  refine ⟨pointOnCurve sn.point1 sn.vmodel, pointOnCurve_iff _ _, (exec_command_eq hrun).trans ?_⟩
  cases hcurve : pointOnCurve sn.point1 sn.vmodel <;> simp only [commandResult, hcurve] <;> rfl

/-! ### DERIVE -/

section Derive
variable {s : State} {sn : Snapshot}

/-- A DERIVE whose scalar multiple does not exist fails as its additions do (R82, R92). -/
theorem exec_derive_of_error {e : FatalCode} (hrun : s.running = some ⟨.derive, sn⟩)
    (he : scalarMul sn.k.toNat s.basePoint = .error e) :
    exec .derive s = .next { s with running := none, done := true, err := true, fatalCode := 0x01#8 } := by
  obtain rfl : e = .nonInvertible := scalarLoop_error_code he
  exact (exec_command_eq hrun).trans (by rw [commandResult, valU, he]; rfl)

/-- A DERIVE whose scalar multiple fails the membership test (R92). -/
theorem exec_derive_of_not_curve {q : Point} (hrun : s.running = some ⟨.derive, sn⟩)
    (hq : scalarMul sn.k.toNat s.basePoint = .ok q) (hcurve : ¬ SatisfiesCurve q sn.vmodel) :
    exec .derive s
      = .next { s with onCurve := false, running := none, done := true, err := true, fatalCode := 0x03#8 } := by
  have htest : ¬ pointOnCurve q sn.vmodel = true := mt (pointOnCurve_iff q sn.vmodel).1 hcurve
  exact (exec_command_eq hrun).trans (by simp only [commandResult, valU, hq, if_neg htest]; rfl)

end Derive

/-- Settles O35, by the success of DERIVE. -/
theorem deriveCompletesOnAPassingKey : Obligations.DeriveCompletesOnAPassingKey := fun _ _ _ => exec_derive_of_curve

/-- Settles O36, by the two failures of DERIVE. -/
theorem deriveFailsOtherwise : Obligations.DeriveFailsOtherwise := fun _ _ hrun =>
  ⟨fun _ => exec_derive_of_error hrun, fun _ => exec_derive_of_not_curve hrun⟩

/-- Settles O38: a DERIVE writes RX and RY only with a key that passes, and both coordinates fit. -/
theorem derivedPublicKeysAreOnTheCurve : Obligations.DerivedPublicKeysAreOnTheCurve := by
  intro s t sn hrun h hwritten
  cases hq : scalarMul sn.k.toNat s.basePoint with
  | error e =>
    rw [exec_derive_of_error hrun hq] at h
    injection h with h
    subst h
    simp at hwritten
  | ok q =>
    by_cases hcurve : SatisfiesCurve q sn.vmodel
    · rw [exec_derive_of_curve hrun hq hcurve] at h
      injection h with h
      subst h
      obtain ⟨hx, hy⟩ := (scalarMul_inField hq).bits256_toNat
      exact ⟨by rwa [hx, hy], rfl⟩
    · rw [exec_derive_of_not_curve hrun hq hcurve] at h
      injection h with h
      subst h
      simp at hwritten

end Sys2Proof.Machine

/-!
PROOFS of family 44: one read of POLL (O45). It reaches the word that an RD of its offset reaches, and goes on or repeats
by the mask.
-/

namespace Sys2Proof.Machine

section
variable {off : Offset} {reg : RegName} {j : Nat} {mask : Word} {s : State}

theorem exec_poll_of_set (h : locate off = .ok (reg, j)) (hset : readWord s reg j &&& mask = mask) :
    exec (.poll off mask) s = .next (s.returning reg j).advance := by
  rw [exec_poll_of_locate h, if_pos hset]

theorem exec_poll_of_clear (h : locate off = .ok (reg, j)) (hclear : readWord s reg j &&& mask ≠ mask) :
    exec (.poll off mask) s = .next (s.returning reg j) := by
  rw [exec_poll_of_locate h, if_neg hclear]

end

/-- Settles O45: the word that RD returns decides by the mask, and every word has all bits of mask 0. -/
theorem pollRepeatsUntilTheMaskIsSet : Obligations.PollRepeatsUntilTheMaskIsSet := by
  intro s off mask hlisted
  obtain ⟨reg, j, hl⟩ := locate_of_listed hlisted
  exact ⟨_, exec_rd_of_locate hl s, fun hset => exec_poll_of_set hl hset,
    fun hclear => exec_poll_of_clear hl hclear, exec_poll_of_set hl BitVec.and_zero⟩

end Sys2Proof.Machine

/-!
PROOFS of family 60: the rejected CMD writes (O51), what lifts the lock (O56), the engine turn that always answers (O59)
and the end of every command (O58). One dichotomy says what a host turn does to the core: it is a soft reset, or the lock,
READY and the settled turns stay. Both whole-machine statements rest on it.
-/

namespace Sys2Proof.Machine

/-! ### Rejections -/

/-- A CMD write that is rejected sets REJ and ERRCODE.REJ (R105). -/
theorem exec_wr_cmd_of_reject {s : State} {w : Word} {c : RejectCode} (h : s.issue w = s.reject c) :
    exec (.wr 0x010#12 w) s = .next { s with rej := true, rejCode := c.code, pos := s.pos + 1 } := by
  rw [exec_wr_of_locate (reg := .cmd) (j := 0) (by decide) rfl, h]
  rfl

section
variable {s : State}

theorem State.issue_of_locked (herr : s.err = true) (w : Word) : s.issue w = s.reject .locked := by
  simp [State.issue, herr]

theorem State.issue_of_not_ready (herr : s.err = false) (hready : s.ready = false) (w : Word) :
    s.issue w = s.reject .notReady := by
  simp [State.issue, herr, hready]

theorem State.issue_of_busy (herr : s.err = false) (hready : s.ready = true) (hrun : s.running ≠ none) (w : Word) :
    s.issue w = s.reject .busy := by
  simp [State.issue, herr, hready, State.busy, Option.isSome_iff_ne_none.2 hrun]

theorem State.issue_of_illegal (h : s.acceptsCommand) {w : Word} (hw : ∀ c : Command, w ≠ c.word) :
    s.issue w = s.reject .illegalCmd := by
  obtain ⟨hready, herr, hidle⟩ := h
  cases hdec : decodeCommand w with
  | ok c => exact absurd (decodeCommand_eq_ok hdec) (hw c)
  | error e => simp [State.issue, herr, hready, State.busy, hidle, hdec]

end

/-- Settles O51, by the four rejections of a CMD write in the order of R106. -/
theorem cmdWriteIsRejectedByPriority : Obligations.CmdWriteIsRejectedByPriority := fun _ w =>
  ⟨fun herr => exec_wr_cmd_of_reject (State.issue_of_locked herr w),
   fun herr hready => exec_wr_cmd_of_reject (State.issue_of_not_ready herr hready w),
   fun herr hready hrun => exec_wr_cmd_of_reject (State.issue_of_busy herr hready hrun w),
   fun haccepts hw => exec_wr_cmd_of_reject (State.issue_of_illegal haccepts hw)⟩

/-! ### What a host turn does to the core -/

/-- The lock stays as it is (R109), and with it READY and the settled turns. -/
structure KeepsLock (s t : State) : Prop where
  err : t.err = s.err
  fatalCode : t.fatalCode = s.fatalCode
  ready : t.ready = s.ready
  turns : t.turns = s.turns

theorem State.issue_keepsLock (s : State) (w : Word) : KeepsLock s (s.issue w) := by
  obtain ⟨c, -, -, -, -, h⟩ | ⟨c, h⟩ := s.issue_cases w <;> rw [h]
  · exact ⟨rfl, rfl, rfl, rfl⟩
  · exact ⟨rfl, rfl, rfl, rfl⟩

/-- A write to a register word is the soft reset (R126), or keeps the lock. -/
theorem writeWord_resets_or_keepsLock {reg : RegName} {j : Nat} {v : Word} {s t : State}
    (h : writeWord reg j v s = some t) :
    (reg = .ctrl ∧ v.getLsbD 0 = true ∧ t = s.coreReset) ∨ KeepsLock s t := by
  cases reg
  case cmd =>
    injection h with h
    exact .inr (h ▸ s.issue_keepsLock v)
  case ctrl =>
    injection h with h
    subst h
    split
    · next hsrst => exact .inl ⟨rfl, hsrst, rfl⟩
    · exact .inr ⟨rfl, rfl, rfl, rfl⟩
  case status | seedCtrl | a | m | x1 | y1 | x2 | y2 | k | seed =>
    injection h with h
    subst h
    exact .inr ⟨rfl, rfl, rfl, rfl⟩
  case id | errcode | r | rx | ry | prime | dconst | gx | gy => cases h

/-- A host turn is a soft reset, which abandons the running command, or keeps the lock. -/
theorem hostTurn_resets_or_keepsLock {s t : State} (h : hostTurn s = .next t) :
    (s.hostSoftResets ∧ t.running = none) ∨ KeepsLock s t := by
  obtain ⟨-, rfl⟩ | ⟨w, i, hw, hi, h⟩ := hostTurn_next h
  · exact .inr ⟨rfl, rfl, rfl, rfl⟩
  obtain rfl | rfl | rfl := decodeRecord_ok hi
  · obtain ⟨reg, j, -, rfl⟩ := execRd_next h
    exact .inr ⟨rfl, rfl, rfl, rfl⟩
  · obtain ⟨reg, j, u, hl, hu, rfl⟩ := execWr_next h
    obtain ⟨rfl, hsrst, rfl⟩ | hkeeps := writeWord_resets_or_keepsLock hu
    · exact .inl ⟨⟨w, _, hw, eq_of_locate_ctrl hl ▸ hi, hsrst⟩, rfl⟩
    · exact .inr ⟨hkeeps.err, hkeeps.fatalCode, hkeeps.ready, hkeeps.turns⟩
  · obtain ⟨reg, j, -, rfl | rfl⟩ := execPoll_next h <;> exact .inr ⟨rfl, rfl, rfl, rfl⟩

/-! ### The lock -/

/-- No command runs in a locked core, so an engine turn keeps the lock (R109, R113). -/
theorem engineTurn_keeps_locked {s t : State} (hs : s.EngineInv) (herr : s.err = true) (h : engineTurn s = .next t) :
    t.err = true ∧ t.fatalCode = s.fatalCode := by
  obtain ⟨-, rfl⟩ | ⟨-, -, rfl⟩ | ⟨r, -, hrun, -⟩ := engineTurn_next h
  · exact ⟨herr, rfl⟩
  · exact ⟨herr, rfl⟩
  · obtain ⟨hrunning, -⟩ := hs
    obtain ⟨-, hunlocked, -⟩ := hrunning r hrun
    simp [herr] at hunlocked

/-- Settles O56, agent by agent: taking a turn changes neither the lock nor the host's next record. -/
theorem onlyAResetLiftsTheLock : Obligations.OnlyAResetLiftsTheLock := by
  intro s t hs herr h hreset hsoft
  obtain ⟨ts, n, hturn⟩ := s.takeTurn_frame
  have hcases := step_cases h
  rw [hturn] at hcases
  obtain ⟨hagent, h⟩ | ⟨-, h⟩ | ⟨hagent, -⟩ := hcases
  · obtain ⟨hresets, -⟩ | hkeeps := hostTurn_resets_or_keepsLock h
    · exact absurd ⟨hagent, hresets⟩ hsoft
    · exact ⟨hkeeps.err.trans herr, hkeeps.fatalCode⟩
  · exact engineTurn_keeps_locked (s := { s with turns := ts, tick := n }) hs herr h
  · exact absurd hagent hreset

/-! ### The engine turn -/

/-- Settles O59: a cycle of the initialisation, an idle turn and the completion of any command all answer. -/
theorem theEngineNeverFaults : Obligations.TheEngineNeverFaults := by
  intro s
  cases hready : s.ready with
  | false => exact ⟨_, engineTurn_of_not_ready hready, by simp⟩
  | true =>
    cases hrun : s.running with
    | none => exact ⟨s, engineTurn_of_idle hready hrun, fun _ => hrun⟩
    | some r =>
      refine ⟨s.complete (commandResult s.basePoint r.snap r.cmd), ?_, fun _ => rfl⟩
      simp [engineTurn, hready, hrun, exec_command_eq hrun]

theorem engineTurn_idle_of_ready {s t : State} (hready : s.ready = true) (h : engineTurn s = .next t) :
    t.running = none := by
  obtain ⟨u, hu, hidle⟩ := theEngineNeverFaults s
  rw [hu] at h
  injection h with h
  exact h ▸ hidle hready

/-! ### The end of a command -/

/-- After some number of steps the engine is idle, unless the run has stopped before. -/
def State.EndsCommand (s : State) : Prop :=
  ∃ n, ∀ t : State, Sys2Proof.core.run n s = .next t → t.running = none

theorem State.endsCommand_of_idle {s : State} (h : s.running = none) : s.EndsCommand :=
  ⟨0, fun t ht => by injection ht with ht; exact ht ▸ h⟩

theorem State.endsCommand_of_step {s : State} (h : ∀ t, step s = .next t → t.EndsCommand) : s.EndsCommand := by
  cases hstep : step s with
  | next t =>
    obtain ⟨n, hn⟩ := h t hstep
    exact ⟨n + 1, by rwa [run_next hstep]⟩
  | fault e => exact ⟨1, fun t ht => by rw [run_fault hstep] at ht; cases ht⟩
  | refused e => exact ⟨1, fun t ht => by rw [run_refused hstep] at ht; cases ht⟩

/-- In a ready core every step leaves the engine idle but a host's, which leaves the core ready. -/
theorem step_ends_or_host {s t : State} (hready : s.ready = true) (h : step s = .next t) :
    t.running = none ∨ (s.takeTurn.1 = .host ∧ t.ready = true ∧ t.turns = s.takeTurn.2.turns) := by
  have hup : s.takeTurn.2.ready = true := by
    obtain ⟨ts, n, hturn⟩ := s.takeTurn_frame
    rw [hturn]
    exact hready
  obtain ⟨hhost, h⟩ | ⟨-, h⟩ | ⟨-, rfl⟩ := step_cases h
  · obtain ⟨-, hidle⟩ | hkeeps := hostTurn_resets_or_keepsLock h
    · exact .inl hidle
    · exact .inr ⟨hhost, hkeeps.ready.trans hup, hkeeps.turns⟩
  · exact .inl (engineTurn_idle_of_ready hup h)
  · exact .inl rfl

/-- A command ends when it ends after every host turn that leaves the core ready. -/
theorem State.endsCommand_of_host {s : State} (hready : s.ready = true)
    (h : s.takeTurn.1 = .host → ∀ t : State, t.ready = true → t.turns = s.takeTurn.2.turns → t.EndsCommand) :
    s.EndsCommand := by
  refine State.endsCommand_of_step fun t hstep => ?_
  obtain hidle | ⟨hhost, htready, htturns⟩ := step_ends_or_host hready hstep
  · exact State.endsCommand_of_idle hidle
  · exact h hhost t htready htturns

/-- A settled turn of the engine or of the reset input ends the command. -/
theorem State.endsCommand_of_event {s : State} (hready : s.ready = true) (hevent : ∃ turn ∈ s.turns, turn ≠ .host) :
    s.EndsCommand := by
  induction hturns : s.turns generalizing s with
  | nil => simp [hturns] at hevent
  | cons turn ts ih =>
    refine State.endsCommand_of_host hready fun hhost t htready htturns => ?_
    rw [State.takeTurn_of_cons hturns] at hhost htturns
    obtain rfl : turn = .host := hhost
    refine ih htready ?_ htturns
    simpa [hturns, htturns] using hevent

theorem freeEvent_ne_host (n : Nat) : freeEvent n ≠ .host := by
  unfold freeEvent
  split <;> simp

/-- Finitely many host turns pass before the event of a draw (R48). -/
theorem freeTurns_event {n : Nat} (h : (freeTurns n).1 = .host) : ∃ turn ∈ (freeTurns n).2, turn ≠ .host := by
  unfold freeTurns at *
  split at h
  · exact absurd h (freeEvent_ne_host n)
  · exact ⟨freeEvent n, by simp, freeEvent_ne_host n⟩

/-- In a ready core every command ends: by the settled turns, or by the event of the next draw (R136). -/
theorem State.endsCommand_of_ready {s : State} (hready : s.ready = true) : s.EndsCommand := by
  induction hturns : s.turns generalizing s with
  | nil =>
    refine State.endsCommand_of_host hready fun hhost t htready htturns => ?_
    simp only [State.takeTurn, hturns] at hhost htturns
    exact State.endsCommand_of_event htready (htturns ▸ freeTurns_event hhost)
  | cons turn ts ih =>
    refine State.endsCommand_of_host hready fun _ t htready htturns => ih htready ?_
    rw [htturns, State.takeTurn_of_cons hturns]

/-- Settles O58, by the number of steps after which the engine is idle. -/
theorem everyAcceptedCommandEnds : Obligations.EveryAcceptedCommandEnds := by
  intro s _ hready _
  obtain ⟨n, hn⟩ := State.endsCommand_of_ready hready
  refine ⟨n, ?_⟩
  split
  · next t ht => exact hn t ht
  · trivial
  · trivial

end Sys2Proof.Machine

/-!
PROOFS of family 70: the initialisation (O12), the soft and the hardware reset (O10, O11), and the invariant at reset
(O53). Both resets are `coreReset`, so what it leaves is said once.
-/

namespace Sys2Proof.Machine

/-! ### The initialisation -/

/-- `s` after the first `j` of its engine turns, when it starts with READY = 0 and `ts` follows these turns (R125). -/
def State.initAfter (s : State) (ts : List Turn) (j : Nat) : State :=
  { s with
    ready := decide (max 1 s.initLeft ≤ j), initLeft := s.initLeft - j
    turns := List.replicate (max 1 s.initLeft - j) .engine ++ ts }

theorem State.initAfter_zero {s : State} {ts : List Turn} (hready : s.ready = false)
    (hturns : s.turns = List.replicate (max 1 s.initLeft) .engine ++ ts) : s.initAfter ts 0 = s := by
  simp [State.initAfter, ← hready, ← hturns]

theorem State.initAfter_ready_of_lt (s : State) (ts : List Turn) {j : Nat} (hj : j < max 1 s.initLeft) :
    (s.initAfter ts j).ready = false :=
  decide_eq_false (Nat.not_le_of_lt hj)

/-- The last of the engine turns leaves READY = 1 and the count at 0, and uses the turns up. -/
theorem State.initAfter_end (s : State) (ts : List Turn) :
    s.initAfter ts (max 1 s.initLeft) = { s with ready := true, initLeft := 0, turns := ts } := by
  simp [State.initAfter]

/-- Every engine turn of the initialisation is one cycle of the countdown. -/
theorem step_initAfter (s : State) (ts : List Turn) {j : Nat} (hj : j < max 1 s.initLeft) :
    step (s.initAfter ts j) = .next (s.initAfter ts (j + 1)) := by
  have hturns : (s.initAfter ts j).turns
      = .engine :: (List.replicate (max 1 s.initLeft - (j + 1)) .engine ++ ts) := by
    rw [State.initAfter, ← List.cons_append, ← List.replicate_succ,
      show max 1 s.initLeft - (j + 1) + 1 = max 1 s.initLeft - j by omega]
  have hraise : s.initLeft - j ≤ 1 ↔ max 1 s.initLeft ≤ j + 1 := by omega
  calc step (s.initAfter ts j) = engineTurn _ := step_of_engine_turn hturns
    _ = .next (State.initStep _) := engineTurn_of_not_ready (s.initAfter_ready_of_lt ts hj)
    _ = .next (s.initAfter ts (j + 1)) := by simp [State.initStep, State.initAfter, hraise, Nat.sub_sub]

/-- Settles O12, by the run through the states of the countdown. -/
theorem initialisationRaisesReady : Obligations.InitialisationRaisesReady := by
  intro s ts hready hturns
  have hrun : ∀ n ≤ max 1 s.initLeft, Sys2Proof.core.run n s = .next (s.initAfter ts n) := fun n hn => by
    simpa only [State.initAfter_zero hready hturns] using run_of_steps (fun _ => step_initAfter s ts) hn
  refine ⟨fun n hn => ⟨_, hrun n hn.le, s.initAfter_ready_of_lt ts hn, rfl⟩, ?_⟩
  rw [hrun _ le_rfl, State.initAfter_end]

/-! ### The resets -/

/-- Either reset leaves every register at its reset value (R124). -/
theorem State.coreReset_atReset (s : State) : s.coreReset.AtReset := by
  simp [State.AtReset]

/-- No reset touches the parameters (R31). -/
theorem State.coreReset_sameParams (s : State) : SameParams s s.coreReset := ⟨rfl, rfl, rfl⟩

/-- A CTRL write with SRST = 1 is the reset of the core, whatever its other bits (R126). -/
theorem exec_wr_ctrl_softReset {v : Word} (h : v.getLsbD 0 = true) (s : State) :
    exec (.wr 0x004#12 v) s = .next s.coreReset.advance :=
  exec_wr_of_locate (by decide : locate 0x004#12 = .ok (.ctrl, 0)) (by simp only [writeWord, h, if_true])

/-- Settles O10: the write is the reset of the core and takes the host to its next record. -/
theorem softResetResetsTheCore : Obligations.SoftResetResetsTheCore := fun s _ hsrst =>
  ⟨_, exec_wr_ctrl_softReset hsrst s, s.coreReset_atReset, s.coreReset_sameParams, ⟨rfl, rfl, rfl⟩, rfl, rfl⟩

theorem step_of_reset_turn {s : State} {ts : List Turn} (h : s.turns = .reset :: ts) :
    step s = .next { s with turns := ts }.coreReset := by
  rw [step, State.takeTurn_of_cons h, agentTurn, resetTurn]

/-- Settles O11: the turn is the reset of the core and touches nothing of the host. -/
theorem hardwareResetResetsTheCore : Obligations.HardwareResetResetsTheCore := fun s ts hturns =>
  ⟨_, step_of_reset_turn hturns, State.coreReset_atReset _, { s with turns := ts }.coreReset_sameParams,
    rfl, rfl, rfl, rfl, rfl⟩

/-! ### The invariant at reset -/

/-- The state at reset is what a reset makes of itself. -/
theorem State.coreReset_reset : State.reset.coreReset = State.reset := rfl

/-- Settles O53: a reset meets the invariant of the core, and the host stands at the start of its program. -/
theorem invariantHoldsAtReset : Obligations.InvariantHoldsAtReset := by
  obtain ⟨hcodes, hengine, hreset, hresults⟩ := State.coreReset_reset ▸ State.reset.coreReset_coreInv
  exact ⟨hcodes, hengine, hreset, hresults, Nat.zero_le _⟩

end Sys2Proof.Machine
